-- ==== Sys2Proof/Word.lean ====
section
/-! DEFINITION. The word types of the block and their plainest readings. -/

namespace Sys2Proof

/-- One byte of a window or of the NV array. -/
abbrev Byte := BitVec 8

/-- A 32-bit register, operand or command word (R20, R59). -/
abbrev Word := BitVec 32

/-- A binary32 value as its bit pattern (R13). -/
abbrev F32 := BitVec 32

/-- A binary64 value as its bit pattern (R13). -/
abbrev F64 := BitVec 64

/-- The `CH` field of a command word (R63). -/
abbrev Chan := BitVec 16

/-- The `SLOT` field of a command word (R62). -/
abbrev Slot := BitVec 4

end Sys2Proof
end

