-- ==== Sys2Proof/Config.lean ====
section
/-! DEFINITION. What an implementation of the block fixes (R8, R13, R14, R113, R137) and the free values (R9).

The OPEN parameters of R8 are plain data (`Params`), held in `State.cfg`: a theorem about every state is a theorem
about every choice of them. The configuration fields that are functions, and the free values, are constants with no
body: nothing can be proved of the value they give. -/

namespace Sys2Proof

/-- Whether PROD steps between the micro-steps of a composite on the reset block: R15 and R185 contradict each other.
UNINTERPRETED, log 8. -/
opaque Config.prodInComposites : Bool

/-- The OPEN parameters of R8. Notes: log 1 (values at reset), log 10 (`nvDelivered`), log 16 (`crc32IsDefault`), log 8
(`prodInComposites`). -/
structure Params where
  /-- `RING_BYTES`. -/
  ringBytes : Nat
  /-- `XBUF_BYTES`. -/
  xbufBytes : Nat
  /-- `N_BQ`. -/
  nBq : Nat
  /-- `N_EMA`. -/
  nEma : Nat
  /-- `N_NOTCH`. -/
  nNotch : Nat
  /-- `N_CB`. -/
  nCb : Nat
  /-- `N_MA`. -/
  nMa : Nat
  /-- `CB_MAX_L`. -/
  cbMaxL : Nat
  /-- `MA_MAX_L`. -/
  maMaxL : Nat
  /-- `HANN_MAX`. -/
  hannMax : Nat
  /-- `FFT_LENGTHS`. -/
  fftLengths : List Nat
  /-- `SZ(0)`, `SZ(1)`, …: its length is `NV_SECTORS`. -/
  sectorSizes : List Nat
  /-- `OTP_SECTOR`. -/
  otpSector : Nat
  /-- `UPTIME_SECTOR`. -/
  uptimeSector : Nat
  /-- `OTP_V2_RSV`. -/
  otpV2Rsv : Nat
  /-- `BLOCK_BASE`, the platform address of the block's offset 0 (R43). -/
  blockBase : Nat
  /-- Whether `CRC32_FN` is the default of R137; otherwise it is `Config.crc32Custom`. -/
  crc32IsDefault : Bool
  /-- What an NV byte reads as before it is first erased or programmed (R41, "first power-on: a draw per byte"):
  `none` is the free value `Config.nvPowerOn` of its address, `some b` the draw in which every byte is `b`. -/
  nvDelivered : Option Byte
  /-- Whether PROD may step between the micro-steps of a composite: `false` as R15 and D9 say (only ENV may), `true` as R16,
  R71, R72 and R185 say ("PROD keeps producing meanwhile"). Log 8. -/
  prodInComposites : Bool
  deriving DecidableEq, Repr

namespace Params

/-- `OTP_REC_BYTES` (R8). -/
def otpRecBytes : Nat := 32
/-- `OTP_CURRENT` (R8). -/
def otpCurrent : Nat := 2
/-- `UPTIME_MAX_CH` (R8). -/
def uptimeMaxCh : Nat := 38
/-- `UPTIME_MAX_BYTES` (R8). -/
def uptimeMaxBytes : Nat := 0x200

/-- `NV_SECTORS`. -/
def nvSectors (p : Params) : Nat := p.sectorSizes.length

/-- `SZ(k)`; 0 for a number that is no sector. -/
def sz (p : Params) (k : Nat) : Nat := p.sectorSizes.getD k 0

/-- `SB(k)`: SB(0) = 0, SB(k+1) = SB(k) + SZ(k) (R8). -/
def sb (p : Params) (k : Nat) : Nat := (p.sectorSizes.take k).sum

/-- `NV_BYTES`, the sum of the sector sizes (R8). -/
def nvBytes (p : Params) : Nat := p.sectorSizes.sum

/-- The constraint column of R8, and of 92_eei_decisions.md D13, D24, D28, D30, D34, D37, D45, D46. -/
def valid (p : Params) : Bool :=
  4 ≤ p.ringBytes && p.ringBytes ≤ 0x100000 && p.ringBytes % 4 == 0
    && 516 ≤ p.xbufBytes && p.xbufBytes ≤ 0x10000 && p.xbufBytes % 4 == 0
    && 1 ≤ p.nBq && p.nBq ≤ 16 && 1 ≤ p.nEma && p.nEma ≤ 16 && 1 ≤ p.nNotch && p.nNotch ≤ 16
    && 1 ≤ p.nCb && p.nCb ≤ 16 && 1 ≤ p.nMa && p.nMa ≤ 16
    && 1 ≤ p.cbMaxL && 2 ≤ p.maMaxL && 1 ≤ p.hannMax && p.hannMax ≤ 16384
    && !p.fftLengths.isEmpty
    && p.fftLengths.all (fun n => (List.range 14).any (fun k => n == 2 ^ (k + 1)))
    && 2 ≤ p.nvSectors && p.nvSectors ≤ 32 && p.sectorSizes.all (fun z => z % 4 == 0)
    && p.otpSector < p.nvSectors && p.uptimeSector < p.nvSectors && p.otpSector != p.uptimeSector
    && 0x204 ≤ p.sz p.uptimeSector && otpRecBytes ≤ p.sz p.otpSector
    && p.otpV2Rsv ≤ 23

/-- The parameters of the test programs (95_test_vectors.md section 3); the parameters that section does not give
(`CB_MAX_L`, `MA_MAX_L`, `HANN_MAX`, `FFT_LENGTHS`, `OTP_V2_RSV`, `BLOCK_BASE`) are DESIGN CHOICE, log 1. -/
def testPrograms : Params where
  ringBytes := 0x400
  xbufBytes := 0x400
  nBq := 4
  nEma := 4
  nNotch := 4
  nCb := 4
  nMa := 4
  cbMaxL := 16
  maMaxL := 16
  hannMax := 16384
  fftLengths := [2, 4, 8, 16, 32, 64, 128, 256, 512, 1024, 2048, 4096, 8192, 16384]
  sectorSizes := [0x4000, 0x4000, 0x4000, 0x4000]
  otpSector := 0
  uptimeSector := 1
  otpV2Rsv := 0
  blockBase := 0
  crc32IsDefault := true
  nvDelivered := none
  prodInComposites := Config.prodInComposites

end Params

/-- The floating-point operations that can produce a NaN (R13): the NaN's pattern may depend on which one did. -/
inductive FpOp where
  | add
  | sub
  | mul
  | div
  | sqrt
  /-- `toF64` of a binary32 value. -/
  | widen
  /-- `toF32` of a binary64 value. -/
  | narrow
  deriving DecidableEq, Repr

/-- Free values (R9): the `n`-th number drawn once `State.drawTape` is used up. UNINTERPRETED, log 4. -/
opaque Config.freeValue : Nat → Nat

/-- Free choice of the agent that moves next once `State.schedule` is used up (R16). UNINTERPRETED, log 5. -/
opaque Config.freeTurn : Nat → Nat

/-- The NV byte at an address at first power-on (R41). UNINTERPRETED, log 10. -/
opaque Config.nvPowerOn : Nat → Byte

/-- The stored write-protection options at first power-on (R41). UNINTERPRETED, log 11. -/
opaque Config.optWpPowerOn : Word

/-- `NAN32` of an operation and the bits of its operands (R13). UNINTERPRETED, log 9. -/
opaque Config.nan32 : FpOp → List Nat → F32

/-- `NAN64` of an operation and the bits of its operands (R13). UNINTERPRETED, log 9. -/
opaque Config.nan64 : FpOp → List Nat → F64

/-- `SIN` (R14). UNINTERPRETED, log 17. -/
opaque Config.sin : F64 → F64
/-- `COS` (R14). UNINTERPRETED, log 17. -/
opaque Config.cos : F64 → F64
/-- `TAN` (R14). UNINTERPRETED, log 17. -/
opaque Config.tan : F64 → F64
/-- `SINH` (R14). UNINTERPRETED, log 17. -/
opaque Config.sinh : F64 → F64
/-- `LN` (R14). UNINTERPRETED, log 17. -/
opaque Config.ln : F64 → F64
/-- `LOG2` (R14). UNINTERPRETED, log 17. -/
opaque Config.log2 : F64 → F64

/-- Entry `k` of `FFT_FN(n, input)` (R113). UNINTERPRETED, log 17. -/
opaque Config.fftEntry : Nat → List (BitVec 16) → Nat → BitVec 16

/-- `CRC32_FN` where it is not the default (R137). UNINTERPRETED, log 16. -/
opaque Config.crc32Custom : List Word → Word

end Sys2Proof
end

