-- ==== Sys2Proof/Syntax.lean ====
section
/-! DEFINITION. The command set (R67): one constructor per row of spec/opcode_table.json, with the command-word fields
the row uses (R59, R61, R62, R63, R64). -/

namespace Sys2Proof

/-- The `HALF` field (R61): value 3 is reserved and is no constructor. -/
inductive HalfSel where
  /-- 0: `First`. -/
  | first
  /-- 1: `Second`. -/
  | second
  /-- 2: the half `ACQ_LOOP` last delivered. -/
  | last
  deriving DecidableEq, Repr

/-- The 63 commands. `h` is `HALF`, `c` is `CH`, `j` is `SLOT`, `f0` is the flag `F0`. -/
inductive Instr where
  /-- `ACQ_INIT`, opcode 0x01 (R74). -/
  | acqInit
  /-- `ACQ_LOOP`, opcode 0x02 (R75). -/
  | acqLoop
  /-- `ACQ_MEAN`, opcode 0x03 (R78). -/
  | acqMean (h : HalfSel) (c : Chan)
  /-- `ACQ_MEANLIM`, opcode 0x04 (R79). -/
  | acqMeanLim (h : HalfSel) (c : Chan)
  /-- `ACQ_MEANSHIFT`, opcode 0x05 (R80). -/
  | acqMeanShift (h : HalfSel) (c : Chan)
  /-- `ACQ_ABSMEAN`, opcode 0x06 (R81). -/
  | acqAbsMean (h : HalfSel) (c : Chan)
  /-- `ACQ_RMS`, opcode 0x07 (R82). -/
  | acqRms (h : HalfSel) (c : Chan)
  /-- `ACQ_TRUERMS`, opcode 0x08 (R83). -/
  | acqTrueRms (h : HalfSel) (c : Chan)
  /-- `ACQ_MAX`, opcode 0x09 (R84). -/
  | acqMax (h : HalfSel) (c : Chan)
  /-- `ACQ_MIN`, opcode 0x0A (R85). -/
  | acqMin (h : HalfSel) (c : Chan)
  /-- `ACQ_SETOFFSET`, opcode 0x0B (R86). -/
  | acqSetOffset (h : HalfSel) (c : Chan)
  /-- `ACQ_CMA`, opcode 0x0C (R87). -/
  | acqCma (h : HalfSel) (c : Chan)
  /-- `ACQ_PEAKFWD`, opcode 0x0D (R89). -/
  | acqPeakFwd (h : HalfSel) (c : Chan)
  /-- `ACQ_PEAKREV`, opcode 0x0E (R90). -/
  | acqPeakRev (h : HalfSel) (c : Chan)
  /-- `ACQ_SINEWIN`, opcode 0x0F (R91). -/
  | acqSineWin (h : HalfSel) (c : Chan)
  /-- `HANN_INIT`, opcode 0x20 (R94). -/
  | hannInit
  /-- `HANN_APPLY`, opcode 0x21 (R95). -/
  | hannApply (h : HalfSel) (c : Chan)
  /-- `HANN_DIRECT`, opcode 0x22 (R96). -/
  | hannDirect (h : HalfSel) (c : Chan)
  /-- `BQ_INIT_BP`, opcode 0x30 (R100). -/
  | bqInitBp (j : Slot)
  /-- `BQ_INIT_BS`, opcode 0x31 (R101). -/
  | bqInitBs (j : Slot)
  /-- `BQ_INIT_LP`, opcode 0x32 (R102). -/
  | bqInitLp (j : Slot)
  /-- `BQ_LOAD`, opcode 0x33 (R103). -/
  | bqLoad (j : Slot)
  /-- `BQ_STEP`, opcode 0x34 (R104). -/
  | bqStep (j : Slot)
  /-- `EMA_INIT_FC`, opcode 0x38 (R105). -/
  | emaInitFc (j : Slot)
  /-- `EMA_INIT_ALPHA`, opcode 0x39 (R106). -/
  | emaInitAlpha (j : Slot)
  /-- `EMA_STEP`, opcode 0x3A (R107). -/
  | emaStep (j : Slot)
  /-- `NOTCH_INIT`, opcode 0x3C (R108). -/
  | notchInit (j : Slot)
  /-- `NOTCH_STEP`, opcode 0x3D (R109). -/
  | notchStep (j : Slot)
  /-- `CB_INIT`, opcode 0x40 (R122). -/
  | cbInit (j : Slot)
  /-- `CB_PUSH`, opcode 0x41 (R123). -/
  | cbPush (j : Slot)
  /-- `CB_GET`, opcode 0x42 (R124). -/
  | cbGet (j : Slot)
  /-- `CB_MEAN`, opcode 0x43 (R126). -/
  | cbMean (j : Slot)
  /-- `CB_MAX`, opcode 0x44 (R127). -/
  | cbMax (j : Slot)
  /-- `ARR_MAX`, opcode 0x45 (R118). -/
  | arrMax (j : Slot)
  /-- `ARR_MIN`, opcode 0x46 (R119). -/
  | arrMin (j : Slot)
  /-- `ARR_SUM`, opcode 0x47 (R120). -/
  | arrSum (j : Slot)
  /-- `ARR_MEAN`, opcode 0x48 (R121). -/
  | arrMean (j : Slot)
  /-- `MA_INIT`, opcode 0x49 (R128). -/
  | maInit (j : Slot)
  /-- `MA_MEAN`, opcode 0x4A (R130). -/
  | maMean (j : Slot)
  /-- `MA_VAR`, opcode 0x4B (R131). -/
  | maVar (j : Slot)
  /-- `MA_STD`, opcode 0x4C (R132). -/
  | maStd (j : Slot)
  /-- `GZ_INIT`, opcode 0x50 (R110). -/
  | gzInit
  /-- `GZ_FEED`, opcode 0x51 (R112). -/
  | gzFeed (h : HalfSel) (c : Chan)
  /-- `FFT_INIT`, opcode 0x60 (R114). -/
  | fftInit
  /-- `FFT_RUN`, opcode 0x61 (R115). -/
  | fftRun (h : HalfSel) (c : Chan)
  /-- `FFT_ABSMAX`, opcode 0x62 (R116). -/
  | fftAbsMax (f0 : Bool)
  /-- `CRC4`, opcode 0x70 (R135). -/
  | crc4
  /-- `CRC8`, opcode 0x71 (R136). -/
  | crc8
  /-- `CRC32`, opcode 0x72 (R138). -/
  | crc32
  /-- `NV_UNLOCK`, opcode 0x80 (R141). -/
  | nvUnlock
  /-- `NV_LOCK`, opcode 0x81 (R142). -/
  | nvLock
  /-- `NV_OB_UNLOCK`, opcode 0x82 (R143). -/
  | nvObUnlock
  /-- `NV_OB_LOCK`, opcode 0x83 (R144). -/
  | nvObLock
  /-- `NV_WP_SET`, opcode 0x84 (R145). -/
  | nvWpSet (f0 : Bool)
  /-- `NV_OB_LAUNCH`, opcode 0x85 (R146). -/
  | nvObLaunch
  /-- `NV_ERASE`, opcode 0x86 (R147). -/
  | nvErase
  /-- `NV_PROG_BYTE`, opcode 0x87 (R148). -/
  | nvProgByte
  /-- `NV_PROG_WORD`, opcode 0x88 (R149). -/
  | nvProgWord
  /-- `NV_READ_BYTE`, opcode 0x89 (R150). -/
  | nvReadByte
  /-- `NV_READ`, opcode 0x8A (R151). -/
  | nvRead (f0 : Bool)
  /-- `NV_WRITE`, opcode 0x8B (R152). -/
  | nvWrite (f0 : Bool)
  /-- `OTP_READ`, opcode 0x8C (R153). -/
  | otpRead
  /-- `OTP_WRITE`, opcode 0x8D (R154). -/
  | otpWrite
  deriving DecidableEq, Repr

end Sys2Proof
end

