-- ==== Sys2Proof/Machine/State.lean ====
section
/-! DEFINITION. The state of the block (10_state.md R16–R41), the model faults (R161), and the state after reset (R41).

Everything is plain data. Fields that are the model's own and no state of the spec are marked MODEL. -/

namespace Sys2Proof.Machine

/-- A window's bytes or the NV array: (address, byte) cells, addresses strictly rising, no cell equal to what an
unlisted address reads as (`Memory.wf`). -/
abbrev Memory := List Host.Cell

/-- Where a model fault was raised (R161: "recorded with the agent and the access offset or the command word"). -/
inductive Site where
  /-- A HOST access at this offset from the block's base. -/
  | host (offset : Int)
  /-- CMDU, executing this command word. -/
  | command (word : Word)
  deriving DecidableEq, Repr

/-- The model faults of R161. Each ends the run and leaves the state before the step. All are SAFE: the spec itself
raises them. -/
inductive Fault where
  /-- A command reads an `ARG` register whose written mark is clear (R17). Raised by CMDU. Safe. -/
  | unwrittenArg (site : Site)
  /-- HOST reads a `RES` register whose written mark is clear (R17). Raised by HOST. Safe. -/
  | unwrittenRes (site : Site)
  /-- A command or HOST reads a RING, XBUF, `TAB` or `HCOEF` byte whose written mark is clear (R27, R29, R34, R37).
  Raised by CMDU or HOST. Safe. -/
  | unwrittenData (site : Site)
  /-- HOST accesses an offset outside every register and window extent (R43, R47). Raised by HOST. Safe. -/
  | unmapped (site : Site)
  /-- HOST accesses a register or window at a misaligned offset (R48). Raised by HOST. Safe. -/
  | misaligned (site : Site)
  /-- HOST accesses a register with a width other than 4 (R46). Raised by HOST. Safe. -/
  | badWidth (site : Site)
  deriving DecidableEq, Repr

/-- What the model has no meaning for. No meaning of this model refuses. -/
inductive Refusal where
  /-- A command without a meaning, by its mnemonic. Raised by an arm of `exec` only. Safe. No arm raises it. -/
  | notModelled (mnemonic : String)
  deriving DecidableEq, Repr

/-- The result codes (R160); 7 to 15 are never written. -/
inductive ResultCode where
  | ok
  | illegal
  | arg
  | notInit
  | writeFail
  | empty
  | crcFail
  deriving DecidableEq, Repr

/-- `ActiveBuffer`: which half the producer last completed (R22); the type of `ACTIVE` and `LAST`. -/
inductive ActiveBuffer where
  | notAvailable
  | first
  | second
  deriving DecidableEq, Repr

/-- One half of the ring (R45). -/
inductive Half where
  | first
  | second
  deriving DecidableEq, Repr

/-- An entry of the completion FIFO (R28). -/
inductive Completion where
  | half
  | full
  deriving DecidableEq, Repr

/-- An operand or result register with its written mark (R17). -/
structure MarkedReg where
  value : Word
  written : Bool
  deriving DecidableEq, Repr

/-- A biquad slot (R30). -/
structure Biquad where
  initialised : Bool
  b0 : F32
  b1 : F32
  b2 : F32
  a1 : F32
  a2 : F32
  x0 : F32
  x1 : F32
  x2 : F32
  y0 : F32
  y1 : F32
  y2 : F32
  deriving DecidableEq, Repr

/-- An EMA slot (R31). -/
structure Ema where
  initialised : Bool
  alpha : F32
  y : F32
  deriving DecidableEq, Repr

/-- A notch slot (R32). -/
structure Notch where
  initialised : Bool
  alpha : F32
  beta : F32
  x0 : F32
  x1 : F32
  x2 : F32
  y0 : F32
  y1 : F32
  y2 : F32
  deriving DecidableEq, Repr

/-- The Goertzel detector (R33); `n` is `GZ_N` (0: not initialised) and `cnt` is `GZ_CNT`. -/
structure Goertzel where
  n : Word
  cnt : Word
  omega : F32
  sinw : F32
  cosw : F32
  coeff : F32
  scalingFactor : F32
  inputScaling : F32
  q0 : F32
  q1 : F32
  q2 : F32
  mag : F32
  deriving DecidableEq, Repr

/-- A circular buffer (R35): length `len` (0: not initialised), backing array, write index. -/
structure CircBuf where
  len : Nat
  buf : List F32
  idx : Nat
  deriving DecidableEq, Repr

/-- A moving-average slot (R36). -/
structure MovAvg where
  cb : CircBuf
  sum : F32
  varSum : F32
  mean : F32
  deriving DecidableEq, Repr

/-- The torn-target record `TGT` (R38, R158). Every target of a micro-step is a run of consecutive NV bytes or one
option bit (R140). -/
inductive TornTarget where
  | none
  /-- NV bytes `lo` to `lo + n - 1`. -/
  | bytes (lo n : Nat)
  /-- Bit `k` of `NV_OPT_WP`. -/
  | optBit (k : Nat)
  deriving DecidableEq, Repr

/-- An NV composite command with its operands as read at its start (R39, R152, R154). -/
inductive Composite where
  /-- `NV_WRITE`: `F0`, `ARG0` (address), `ARG1` (length), `ARG2` (XBUF offset), and the bytes `P` to program. -/
  | nvWrite (f0 : Bool) (a n xo : Word) (payload : List Byte)
  /-- `OTP_WRITE`: the record `R`. -/
  | otpWrite (record : List Byte)
  deriving DecidableEq, Repr

/-- A composite in progress and the index of its next micro-step (R39). -/
structure Progress where
  command : Composite
  index : Nat
  deriving DecidableEq, Repr

/-- The step an agent is given its turn for (R16). MODEL, log 5. -/
inductive Turn where
  /-- HOST's next access (R16, R46). -/
  | host
  /-- CMDU's next micro-step (R140). -/
  | cmdu
  /-- PROD's produce step (R71). -/
  | produce
  /-- PROD's completion step (R72). -/
  | complete
  /-- ENV's power-loss step (R173). -/
  | powerLoss
  deriving DecidableEq, Repr

/-- The width of a HOST access (R46). -/
inductive Width where
  | w1
  | w2
  | w4
  deriving DecidableEq, Repr

/-- What a HOST program writes: a literal or the value it last read (R69, 95_test_vectors.md P2). MODEL, log 6. -/
inductive HostValue where
  | lit (v : Word)
  | lastRead
  deriving DecidableEq, Repr

/-- One line of a HOST program (R69): one access at a platform address. `again = some (v, k)` sends HOST back to line
`k` unless the value read is `v` (R70, `waithalf`). MODEL, log 6. -/
inductive HostLine where
  | write (addr : Nat) (width : Width) (value : HostValue)
  | read (addr : Nat) (width : Width) (again : Option (Word × Nat))
  deriving DecidableEq, Repr

/-- The state of the block and of its run. -/
structure State where
  /-- The parameters of R8; no step changes them. Log 1. -/
  cfg : Params
  /-- `CMD` read-back (R21). -/
  cmd : Word
  /-- `RC` (R19). -/
  rc : ResultCode
  /-- `ARG0`–`ARG7` (R17). -/
  args : Vector MarkedReg 8
  /-- `RES0`–`RES3` (R17). -/
  res : Vector MarkedReg 4
  /-- `ACQ_C` (R22). -/
  acqC : Word
  /-- `ACQ_S` (R22). -/
  acqS : Word
  /-- `ACQ_CFG.W32` (R22): samples are 32 bits wide, else 16. -/
  w32 : Bool
  /-- `ACQ_CFG.ARMED` (R22). -/
  armed : Bool
  /-- `ACQ_STATE.ACTIVE` (R22). -/
  active : ActiveBuffer
  /-- `ACQ_STATE.LAST` (R22). -/
  last : ActiveBuffer
  /-- `ACQ_WPTR` (R22). -/
  wptr : Word
  /-- The completion FIFO, oldest first (R28). -/
  fifo : List Completion
  /-- `CRC4_POLY` (R23). -/
  crc4Poly : BitVec 4
  /-- `CRC4_INIT` (R23). -/
  crc4Init : BitVec 4
  /-- `CRC8_POLY` (R23). -/
  crc8Poly : BitVec 8
  /-- `CRC8_INIT` (R23). -/
  crc8Init : BitVec 8
  /-- `NV_STATE.LOCK` (R24). -/
  lock : Bool
  /-- `NV_STATE.OBLOCK` (R24). -/
  oblock : Bool
  /-- `NV_WP`, the protection in force (R24). -/
  nvWp : Word
  /-- `NV_OPT_WP`, the stored protection, non-volatile (R24). -/
  nvOptWp : Word
  /-- `NV`, non-volatile (R38). -/
  nv : Memory
  /-- `TGT` (R38, R158). -/
  tgt : TornTarget
  /-- Composite progress (R39). -/
  progress : Option Progress
  /-- `FFT_LEN` (R25). -/
  fftLen : Word
  /-- `HANN_LEN` (R25). -/
  hannLen : Word
  /-- The Goertzel detector (R33). -/
  gz : Goertzel
  /-- Biquad slots (R30); the block has the first `cfg.nBq`. Log 15. -/
  bq : Vector Biquad 16
  /-- EMA slots (R31); the block has the first `cfg.nEma`. -/
  ema : Vector Ema 16
  /-- Notch slots (R32); the block has the first `cfg.nNotch`. -/
  notch : Vector Notch 16
  /-- Circular-buffer slots (R35); the block has the first `cfg.nCb`. -/
  cb : Vector CircBuf 16
  /-- Moving-average slots (R36); the block has the first `cfg.nMa`. -/
  ma : Vector MovAvg 16
  /-- Ring memory, by RING window offset (R27). -/
  ring : Memory
  /-- XBUF, by XBUF window offset (R37). -/
  xbuf : Memory
  /-- `TAB` as the bytes of the FFT_TAB window (R34, R43). -/
  tab : Memory
  /-- `HCOEF` as the bytes of the HANN_TAB window (R29, R43). -/
  hcoef : Memory
  /-- MODEL: the next draws (R9), oldest first. Log 4. -/
  drawTape : List Nat
  /-- MODEL: how many draws came from `Config.freeValue`. Log 4. -/
  drawCount : Nat
  /-- MODEL: which agent moves next (R16). Log 5. -/
  schedule : List Turn
  /-- MODEL: how many turns came from `Config.freeTurn`. Log 5. -/
  turnCount : Nat
  /-- MODEL: the HOST program (R18). Log 6. -/
  hostProgram : List HostLine
  /-- MODEL: HOST's next line. Log 6. -/
  hostPos : Nat
  /-- MODEL: the value HOST last read. Log 6. -/
  hostData : Word
  deriving DecidableEq, Repr

/-- A register right after reset (R41): mark clear; the value is DESIGN CHOICE, log 2. -/
def MarkedReg.reset : MarkedReg := ⟨0, false⟩

/-- A biquad slot right after reset (R41): not initialised; the contents are DESIGN CHOICE, log 2. -/
def Biquad.reset : Biquad := ⟨false, 0, 0, 0, 0, 0, 0, 0, 0, 0, 0, 0⟩

/-- An EMA slot right after reset (R41): not initialised; the contents are DESIGN CHOICE, log 2. -/
def Ema.reset : Ema := ⟨false, 0, 0⟩

/-- A notch slot right after reset (R41): not initialised; the contents are DESIGN CHOICE, log 2. -/
def Notch.reset : Notch := ⟨false, 0, 0, 0, 0, 0, 0, 0, 0⟩

/-- The Goertzel detector right after reset (R41): `GZ_N` = `GZ_CNT` = 0; the rest is DESIGN CHOICE, log 2. -/
def Goertzel.reset : Goertzel := ⟨0, 0, 0, 0, 0, 0, 0, 0, 0, 0, 0, 0⟩

/-- A circular buffer right after reset (R41): `L` = 0; the contents are DESIGN CHOICE, log 2. -/
def CircBuf.reset (maxLen : Nat) : CircBuf := ⟨0, List.replicate maxLen 0, 0⟩

/-- A moving-average slot right after reset (R41): `L` = 0; the contents are DESIGN CHOICE, log 2. -/
def MovAvg.reset (maxLen : Nat) : MovAvg := ⟨.reset maxLen, 0, 0, 0⟩

/-- The reset of R41 and R172 of a block with parameters `cfg`, NV contents `nv` and stored options `optWp`. The run's
own fields (draws, schedule, HOST program) are arguments: a reset inside a run keeps them (R173). -/
def State.powerUp (cfg : Params) (nv : Memory) (optWp : Word) (drawTape : List Nat) (drawCount : Nat)
    (schedule : List Turn) (turnCount : Nat) (hostProgram : List HostLine) : State where
  cfg := cfg
  cmd := 0
  rc := .ok
  args := Vector.replicate 8 .reset
  res := Vector.replicate 4 .reset
  acqC := 0
  acqS := 0
  w32 := false
  armed := false
  active := .notAvailable
  last := .notAvailable
  wptr := 0
  fifo := []
  crc4Poly := 0
  crc4Init := 0
  crc8Poly := 0
  crc8Init := 0
  lock := true
  oblock := true
  nvWp := optWp
  nvOptWp := optWp
  nv := nv
  tgt := .none
  progress := none
  fftLen := 0
  hannLen := 0
  gz := .reset
  bq := Vector.replicate 16 .reset
  ema := Vector.replicate 16 .reset
  notch := Vector.replicate 16 .reset
  cb := Vector.replicate 16 (.reset cfg.cbMaxL)
  ma := Vector.replicate 16 (.reset cfg.maMaxL)
  ring := []
  xbuf := []
  tab := []
  hcoef := []
  drawTape := drawTape
  drawCount := drawCount
  schedule := schedule
  turnCount := turnCount
  hostProgram := hostProgram
  hostPos := 0
  hostData := 0

/-- The option bits of sectors that exist; the other bits of `NV_OPT_WP` and `NV_WP` are 0 (R20). -/
def sectorBits (cfg : Params) (v : Word) : Word := v &&& BitVec.ofNat 32 (2 ^ cfg.nvSectors - 1)

/-- The block right after first power-on (R41, R172): NV and `NV_OPT_WP` are draws (log 10, log 11), nothing is
loaded from outside (log 7). -/
def State.reset : State :=
  .powerUp .testPrograms [] (sectorBits .testPrograms Config.optWpPowerOn) [] 0 [] 0 []

end Sys2Proof.Machine
end

