-- ==== Sys2Proof/Machine/Flags.lean ====
section
/-! DEFINITION. The result code, the block's only flag (R19, R160): its numbers, and ending a command with it. -/

namespace Sys2Proof.Machine

/-- The outcome of a step. -/
abbrev Result := Host.Outcome State Fault Refusal

/-- The number of a result code (R160). -/
def ResultCode.code : ResultCode → Word
  | .ok => 0
  | .illegal => 1
  | .arg => 2
  | .notInit => 3
  | .writeFail => 4
  | .empty => 5
  | .crcFail => 6

/-- `finish X` (R12, R159): the command ends with result code `X`. -/
def State.finish (s : State) (code : ResultCode) : Result := .next { s with rc := code }

end Sys2Proof.Machine
end

