-- ==== Sys2Proof/Machine/Float.lean ====
section
/-! DEFINITION. IEEE 754 binary32 and binary64 arithmetic with round-to-nearest-even (R13), on bit patterns, computed
exactly over integers and rounded once. Subnormals are kept; no operation is fused. -/

namespace Sys2Proof.Machine

/-- An IEEE binary interchange format: significand bits with the hidden one, and exponent bits. -/
structure FloatFormat where
  prec : Nat
  ebits : Nat
  deriving DecidableEq, Repr

/-- binary32. -/
def binary32 : FloatFormat := ⟨24, 8⟩
/-- binary64. -/
def binary64 : FloatFormat := ⟨53, 11⟩

/-- What a bit pattern stands for: `fin neg m e` is ± m · 2^e. -/
inductive FloatDatum where
  | nan
  | inf (neg : Bool)
  | fin (neg : Bool) (m : Nat) (e : Int)
  deriving DecidableEq, Repr

/-- The exponent of the last place of a subnormal: −149 or −1074. -/
def FloatFormat.emin (f : FloatFormat) : Int := 3 - (2 ^ (f.ebits - 1) : Nat) - (f.prec : Int)

/-- The sign bit, as a number. -/
def FloatFormat.signBit (f : FloatFormat) : Nat := 2 ^ (f.prec - 1 + f.ebits)

/-- The pattern of +infinity. -/
def FloatFormat.infBits (f : FloatFormat) : Nat := (2 ^ f.ebits - 1) * 2 ^ (f.prec - 1)

/-- Reading a bit pattern. -/
def FloatFormat.unpack (f : FloatFormat) (b : Nat) : FloatDatum :=
  let neg := b / f.signBit % 2 == 1
  let ex := b / 2 ^ (f.prec - 1) % 2 ^ f.ebits
  let fr := b % 2 ^ (f.prec - 1)
  if ex = 2 ^ f.ebits - 1 then (if fr = 0 then .inf neg else .nan)
  else if ex = 0 then .fin neg fr f.emin
  else .fin neg (fr + 2 ^ (f.prec - 1)) (f.emin + (ex : Int) - 1)

/-- `m / 2^k` rounded to the nearest integer, ties to even; `k` > 0. -/
def roundShift (m k : Nat) : Nat :=
  let q := m / 2 ^ k
  let r := m % 2 ^ k
  let half := 2 ^ (k - 1)
  if half < r ∨ (r = half ∧ q % 2 = 1) then q + 1 else q

/-- The pattern with a sign. -/
def FloatFormat.withSign (f : FloatFormat) (neg : Bool) (mag : Nat) : Nat :=
  if neg then f.signBit + mag else mag

/-- The pattern nearest to ± m · 2^e, ties to even; overflow gives infinity. -/
def FloatFormat.round (f : FloatFormat) (neg : Bool) (m : Nat) (e : Int) : Nat :=
  if m = 0 then f.withSign neg 0
  else
    let e' := max (e + (m.log2 + 1 : Nat) - (f.prec : Int)) f.emin
    let mant := if e' ≤ e then m * 2 ^ (e - e').toNat else roundShift m (e' - e).toNat
    f.withSign neg (min ((e' - f.emin).toNat * 2 ^ (f.prec - 1) + mant) f.infBits)

/-- The integer of a finite datum with its exponent lowered to `e'` ≤ `e`. -/
def scaleTo (neg : Bool) (m : Nat) (e e' : Int) : Int :=
  let v : Int := (m * 2 ^ (e - e').toNat : Nat)
  if neg then -v else v

/-- Sum of two patterns; `none` is NaN. -/
def FloatFormat.add (f : FloatFormat) (a b : Nat) : Option Nat :=
  match f.unpack a, f.unpack b with
  | .nan, _ => none
  | _, .nan => none
  | .inf s, .inf t => if s = t then some (f.withSign s f.infBits) else none
  | .inf s, .fin _ _ _ => some (f.withSign s f.infBits)
  | .fin _ _ _, .inf t => some (f.withSign t f.infBits)
  | .fin s m e, .fin t n d =>
    let low := min e d
    let v := scaleTo s m e low + scaleTo t n d low
    if v = 0 then some (f.withSign (s && t) 0) else some (f.round (decide (v < 0)) v.natAbs low)

/-- The pattern with its sign flipped. -/
def FloatFormat.neg (f : FloatFormat) (a : Nat) : Nat :=
  if a / f.signBit % 2 = 1 then a - f.signBit else a + f.signBit

/-- Product of two patterns; `none` is NaN. -/
def FloatFormat.mul (f : FloatFormat) (a b : Nat) : Option Nat :=
  match f.unpack a, f.unpack b with
  | .nan, _ => none
  | _, .nan => none
  | .inf s, .inf t => some (f.withSign (s != t) f.infBits)
  | .inf s, .fin t n _ => if n = 0 then none else some (f.withSign (s != t) f.infBits)
  | .fin s m _, .inf t => if m = 0 then none else some (f.withSign (s != t) f.infBits)
  | .fin s m e, .fin t n d => some (f.round (s != t) (m * n) (e + d))

/-- Quotient of two patterns; `none` is NaN. The quotient is kept to more bits than the format has, with a sticky last
bit, so that one rounding of it is the rounding of the exact quotient. -/
def FloatFormat.div (f : FloatFormat) (a b : Nat) : Option Nat :=
  match f.unpack a, f.unpack b with
  | .nan, _ => none
  | _, .nan => none
  | .inf _, .inf _ => none
  | .inf s, .fin t _ _ => some (f.withSign (s != t) f.infBits)
  | .fin s _ _, .inf t => some (f.withSign (s != t) 0)
  | .fin s m e, .fin t n d =>
    if n = 0 then (if m = 0 then none else some (f.withSign (s != t) f.infBits))
    else
      let k := f.prec + 2 + n.log2 + 1
      let num := m * 2 ^ k
      let sticky := if num % n = 0 then 0 else 1
      some (f.round (s != t) (2 * (num / n) + sticky) (e - d - (k : Int) - 1))

/-- The integer square root of `n` from its `bits` low bits, the more significant ones of which are in `r`. -/
def isqrtFrom (n : Nat) : Nat → Nat → Nat
  | 0, r => r
  | bits + 1, r =>
    let c := r + 2 ^ bits
    isqrtFrom n bits (if c * c ≤ n then c else r)

/-- The integer square root, rounded down. -/
def isqrt (n : Nat) : Nat := isqrtFrom n (n.log2 / 2 + 1) 0

/-- Square root of a pattern; `none` is NaN. -/
def FloatFormat.sqrt (f : FloatFormat) (a : Nat) : Option Nat :=
  match f.unpack a with
  | .nan => none
  | .inf neg => if neg then none else some f.infBits
  | .fin neg m e =>
    if m = 0 then some (f.withSign neg 0)
    else if neg then none
    else
      let k := 2 * (f.prec + 2) + (if (e % 2 : Int) = 0 then 0 else 1)
      let n := m * 2 ^ k
      let r := isqrt n
      let sticky := if r * r = n then 0 else 1
      some (f.round false (2 * r + sticky) ((e - (k : Int)) / 2 - 1))

/-- A pattern of one format in another; `none` is NaN. -/
def FloatFormat.convert (f g : FloatFormat) (a : Nat) : Option Nat :=
  match f.unpack a with
  | .nan => none
  | .inf neg => some (g.withSign neg g.infBits)
  | .fin neg m e => some (g.round neg m e)

/-- The pattern nearest to an integer. -/
def FloatFormat.ofInt (f : FloatFormat) (v : Int) : Nat := f.round (decide (v < 0)) v.natAbs 0

/-- The integer part toward zero of a finite pattern (R13, `toIntTrunc`); `none` for NaN and infinities. -/
def FloatFormat.trunc (f : FloatFormat) (a : Nat) : Option Int :=
  match f.unpack a with
  | .nan => none
  | .inf _ => none
  | .fin neg m e =>
    let mag : Nat := if 0 ≤ e then m * 2 ^ e.toNat else m / 2 ^ (-e).toNat
    some (if neg then -(mag : Int) else mag)

/-- Whether a pattern is a NaN. -/
def FloatFormat.isNan (f : FloatFormat) (a : Nat) : Bool :=
  match f.unpack a with
  | .nan => true
  | _ => false

/-- The place of a pattern in the order of values: +0 and −0 have the same. -/
def FloatFormat.orderKey (f : FloatFormat) (a : Nat) : Int :=
  let mag : Int := (a % f.signBit : Nat)
  if a / f.signBit % 2 = 1 then -mag else mag

/-- IEEE `a < b`: false when either is NaN. -/
def FloatFormat.lt (f : FloatFormat) (a b : Nat) : Bool :=
  !f.isNan a && !f.isNan b && decide (f.orderKey a < f.orderKey b)

/-- A NaN pattern made from any pattern; every NaN pattern is its own image. -/
def FloatFormat.toNan (f : FloatFormat) (raw : Nat) : Nat :=
  if f.isNan raw then raw else f.infBits + 2 ^ (f.prec - 2)

/-- `NAN32` (R13): some NaN pattern, a function of the operation and its operands. Log 9. -/
def F32.nan (op : FpOp) (operands : List Nat) : F32 :=
  BitVec.ofNat 32 (binary32.toNan (Config.nan32 op operands).toNat)

/-- `NAN64` (R13): some NaN pattern, a function of the operation and its operands. Log 9. -/
def F64.nan (op : FpOp) (operands : List Nat) : F64 :=
  BitVec.ofNat 64 (binary64.toNan (Config.nan64 op operands).toNat)

/-- A binary32 result, a NaN replaced by `NAN32`. -/
def F32.pack (op : FpOp) (operands : List Nat) : Option Nat → F32
  | some r => BitVec.ofNat 32 r
  | none => F32.nan op operands

/-- A binary64 result, a NaN replaced by `NAN64`. -/
def F64.pack (op : FpOp) (operands : List Nat) : Option Nat → F64
  | some r => BitVec.ofNat 64 r
  | none => F64.nan op operands

/-- `a +32 b`. -/
def F32.add (a b : F32) : F32 := F32.pack .add [a.toNat, b.toNat] (binary32.add a.toNat b.toNat)
/-- `a -32 b`. -/
def F32.sub (a b : F32) : F32 :=
  F32.pack .sub [a.toNat, b.toNat] (binary32.add a.toNat (binary32.neg b.toNat))
/-- `a *32 b`. -/
def F32.mul (a b : F32) : F32 := F32.pack .mul [a.toNat, b.toNat] (binary32.mul a.toNat b.toNat)
/-- `a /32 b`. -/
def F32.div (a b : F32) : F32 := F32.pack .div [a.toNat, b.toNat] (binary32.div a.toNat b.toNat)
/-- `sqrt32(a)`. -/
def F32.sqrt (a : F32) : F32 := F32.pack .sqrt [a.toNat] (binary32.sqrt a.toNat)
/-- `toF32` of an integer. -/
def F32.ofInt (v : Int) : F32 := BitVec.ofNat 32 (binary32.ofInt v)
/-- `toF32` of a binary64 value. -/
def F32.ofF64 (a : F64) : F32 := F32.pack .narrow [a.toNat] (binary64.convert binary32 a.toNat)
/-- The integer part toward zero; `none` for NaN and infinities. -/
def F32.trunc (a : F32) : Option Int := binary32.trunc a.toNat
/-- IEEE `a < b`. -/
def F32.lt (a b : F32) : Bool := binary32.lt a.toNat b.toNat

/-- `a +64 b`. -/
def F64.add (a b : F64) : F64 := F64.pack .add [a.toNat, b.toNat] (binary64.add a.toNat b.toNat)
/-- `a -64 b`. -/
def F64.sub (a b : F64) : F64 :=
  F64.pack .sub [a.toNat, b.toNat] (binary64.add a.toNat (binary64.neg b.toNat))
/-- `a *64 b`. -/
def F64.mul (a b : F64) : F64 := F64.pack .mul [a.toNat, b.toNat] (binary64.mul a.toNat b.toNat)
/-- `a /64 b`. -/
def F64.div (a b : F64) : F64 := F64.pack .div [a.toNat, b.toNat] (binary64.div a.toNat b.toNat)
/-- `sqrt64(a)`. -/
def F64.sqrt (a : F64) : F64 := F64.pack .sqrt [a.toNat] (binary64.sqrt a.toNat)
/-- `toF64` of an integer. -/
def F64.ofInt (v : Int) : F64 := BitVec.ofNat 64 (binary64.ofInt v)
/-- `toF64` of a binary32 value. -/
def F64.ofF32 (a : F32) : F64 := F64.pack .widen [a.toNat] (binary32.convert binary64 a.toNat)
/-- `−a`: the sign bit flipped, of a NaN too. DEDUCED, log 21. -/
def F64.neg (a : F64) : F64 := BitVec.ofNat 64 (binary64.neg a.toNat)
/-- The integer part toward zero; `none` for NaN and infinities. -/
def F64.trunc (a : F64) : Option Int := binary64.trunc a.toNat
/-- IEEE `a < b`. -/
def F64.lt (a b : F64) : Bool := binary64.lt a.toNat b.toNat
/-- Whether a value is NaN. -/
def F64.isNan (a : F64) : Bool := binary64.isNan a.toNat

/-- The f64 constants of the formulas. -/
def F64.half : F64 := 0x3FE0000000000000
/-- 1.0 -/
def F64.one : F64 := 0x3FF0000000000000
/-- 2.0 -/
def F64.two : F64 := 0x4000000000000000
/-- 3.0 -/
def F64.three : F64 := 0x4008000000000000
/-- 4.0 -/
def F64.four : F64 := 0x4010000000000000
/-- −2.0 -/
def F64.minusTwo : F64 := 0xC000000000000000
/-- 2^32 -/
def F64.two32 : F64 := 0x41F0000000000000
/-- The f64 value nearest to π (R14). -/
def F64.pi : F64 := 0x400921FB54442D18

/-- +0.0 -/
def F32.zero : F32 := 0
/-- 1.0 -/
def F32.one : F32 := 0x3F800000
/-- 2.0 -/
def F32.two : F32 := 0x40000000
/-- 8.0 -/
def F32.eight : F32 := 0x41000000

end Sys2Proof.Machine
end

