-- ==== Sys2Proof/Machine/Memory.lean ====
section
/-! DEFINITION. Byte memories (R27, R37, R38, R47): reading, writing and clearing, little-endian values (R44), and the
canonical form. `blank a` is what an unlisted address `a` reads as; `none` is "unwritten". -/

namespace Sys2Proof.Machine

/-- The listed byte at an address. -/
def Memory.lookup : Memory → Nat → Option Byte
  | [], _ => none
  | (k, v) :: rest, a => if k = a then some v else Memory.lookup rest a

/-- Reading a byte: the listed one, else the blank. -/
def Memory.read (blank : Nat → Option Byte) (m : Memory) (a : Nat) : Option Byte :=
  match Memory.lookup m a with
  | some v => some v
  | none => blank a

/-- The cells of consecutive bytes. -/
def cellsAt (lo : Nat) : List Byte → Memory
  | [] => []
  | b :: bs => (lo, b) :: cellsAt (lo + 1) bs

/-- Storing consecutive bytes from `lo` on. A byte equal to the blank is not listed. -/
def Memory.setRange (blank : Nat → Option Byte) (m : Memory) (lo : Nat) (bs : List Byte) : Memory :=
  m.filter (fun c => decide (c.1 < lo))
    ++ ((cellsAt lo bs).filter (fun c => decide (blank c.1 ≠ some c.2))
    ++ m.filter (fun c => decide (lo + bs.length ≤ c.1)))

/-- Clearing the written marks of `n` bytes from `lo` on (R114). -/
def Memory.clearRange (m : Memory) (lo n : Nat) : Memory :=
  m.filter (fun c => decide (c.1 < lo ∨ lo + n ≤ c.1))

/-- The canonical form: addresses strictly rising, no cell equal to what its address reads as unlisted. -/
abbrev Memory.wf (blank : Nat → Option Byte) (m : Memory) : Prop :=
  List.Pairwise (fun c d : Host.Cell => c.1 < d.1) m ∧ ∀ c ∈ m, blank c.1 ≠ some c.2

/-- Reading `n` bytes from `lo` on; `none` if one of them is unwritten. -/
def Memory.readBytes (blank : Nat → Option Byte) (m : Memory) (lo : Nat) : Nat → Option (List Byte)
  | 0 => some []
  | n + 1 =>
    match Memory.read blank m lo, Memory.readBytes blank m (lo + 1) n with
    | some b, some bs => some (b :: bs)
    | _, _ => none

/-- An unlisted window byte is unwritten (R27). -/
def unwritten : Nat → Option Byte := fun _ => none

/-- An unlisted NV byte: what it was delivered with (R41). Log 10. -/
def nvBlankByte (cfg : Params) (a : Nat) : Byte :=
  match cfg.nvDelivered with
  | some b => b
  | none => Config.nvPowerOn a

/-- An unlisted NV byte always has a value (R139). -/
def nvBlank (cfg : Params) : Nat → Option Byte := fun a => some (nvBlankByte cfg a)

/-- The number of a little-endian byte sequence (R44). -/
def leNat : List Byte → Nat
  | [] => 0
  | b :: bs => b.toNat + 256 * leNat bs

/-- The `n` low bytes of a number, least significant first (R44). -/
def leBytes : Nat → Nat → List Byte
  | 0, _ => []
  | n + 1, v => BitVec.ofNat 8 v :: leBytes n (v / 256)

/-- The 32-bit words of a byte sequence, little-endian (R137); a rest shorter than a word is left out. -/
def leWords : List Byte → List Word
  | a :: b :: c :: d :: rest => BitVec.ofNat 32 (leNat [a, b, c, d]) :: leWords rest
  | _ => []

end Sys2Proof.Machine
end

