-- ==== Sys2Proof/Machine/Ops.lean ====
section
/-! DEFINITION. The named operations over registers and memories that the commands share: operand reads and result
writes (R17, R66), model faults (R161), draws (R9), samples of the ring (R45), bytes of XBUF and NV (R37, R38). The block
takes no exception and returns from none (R165): what it has instead is the result code (`State.finish`) and the model
fault (`State.dataFault`, `State.withArg`). -/

namespace Sys2Proof.Machine

/-- A command reads `ARG[n]` (R65). R17 states the fault: "A command that reads an `ARG` register whose mark is clear raises
`Fault(UnwrittenArg)`"; so do R161, R162 and R175. -/
def State.withArg (s : State) (n : Fin 8) (k : Word → Result) : Result :=
  if s.args[n].written then k s.args[n].value else .fault (.unwrittenArg (.command s.cmd))

/-- The fault of a command that reads an unwritten data byte (R161). -/
def State.dataFault (s : State) : Result := .fault (.unwrittenData (.command s.cmd))

/-- A command goes on with data it has read; `none` is an unwritten byte among them (R161). -/
def State.withData {α : Type} (s : State) (x : Option α) (k : α → Result) : Result :=
  match x with
  | some v => k v
  | none => s.dataFault

/-- `RES[n] <- v` (R12, R17). -/
def State.setRes (s : State) (n : Fin 4) (v : Word) : State :=
  { s with res := s.res.set n ⟨v, true⟩ }

/-- A 64-bit result (R66): `RES0 <- r[31:0]`, `RES1 <- r[63:32]`. -/
def State.setRes64 (s : State) (r : BitVec 64) : State :=
  (s.setRes 0 (r.extractLsb' 0 32)).setRes 1 (r.extractLsb' 32 32)

/-- A command that returns a 64-bit value (R66). -/
def State.finish64 (s : State) (r : BitVec 64) : Result := (s.setRes64 r).finish .ok

/-- A command that returns one 32-bit word in `RES0` (R66). -/
def State.finish32 (s : State) (r : Word) : Result := (s.setRes 0 r).finish .ok

/-- One draw (R9): the next number of the tape, or a free value when the tape is used up. Log 4. -/
def State.draw (s : State) : Nat × State :=
  match s.drawTape with
  | v :: rest => (v, { s with drawTape := rest })
  | [] => (Config.freeValue s.drawCount, { s with drawCount := s.drawCount + 1 })

/-- `draw bool`. -/
def State.drawBool (s : State) : Bool × State := (s.draw.1 % 2 == 1, s.draw.2)

/-- A draw of `w` bits. -/
def State.drawBits (s : State) (w : Nat) : BitVec w × State := (BitVec.ofNat w s.draw.1, s.draw.2)

/-- `n` draws of a byte. -/
def State.drawBytes (s : State) : Nat → List Byte × State
  | 0 => ([], s)
  | n + 1 => ((s.drawBits 8).1 :: ((s.drawBits 8).2.drawBytes n).1, ((s.drawBits 8).2.drawBytes n).2)

/-- `W` (R3, R22). -/
def State.width (s : State) : Nat := if s.w32 then 32 else 16

/-- `W/8`. -/
def State.elemBytes (s : State) : Nat := if s.w32 then 4 else 2

/-- C·S, the elements of a half (R45). -/
def State.halfElems (s : State) : Nat := s.acqC.toNat * s.acqS.toNat

/-- `elemIndex(h, s, c)` (R45). -/
def State.elemIndex (s : State) (h : Half) (smp c : Nat) : Nat :=
  (match h with
    | .first => 0
    | .second => s.halfElems) + smp * s.acqC.toNat + c

/-- The ring offset of a sample (R45). -/
def State.sampleAddr (s : State) (h : Half) (smp c : Nat) : Nat := s.elemIndex h smp c * s.elemBytes

/-- `wrap_W(v)` as the bytes stored (R11, R45). -/
def State.sampleBytes (s : State) (v : Int) : List Byte :=
  leBytes s.elemBytes (v % 2 ^ s.width).toNat

/-- `E(h, s, c)` (R45): the sample, sign-extended; `none` if a byte of it is unwritten. -/
def State.sample? (s : State) (h : Half) (smp c : Nat) : Option Int :=
  match Memory.readBytes unwritten s.ring (s.sampleAddr h smp c) s.elemBytes with
  | some bs => some (Int.bmod (leNat bs) (2 ^ s.width))
  | none => none

/-- `SetE(h, s, c, v)` (R45). -/
def State.setSample (s : State) (h : Half) (smp c : Nat) (v : Int) : State :=
  { s with ring := Memory.setRange unwritten s.ring (s.sampleAddr h smp c) (s.sampleBytes v) }

/-- The samples `lo`, …, `lo + n - 1` of a channel; `none` if one of them is unwritten. -/
def State.samples? (s : State) (h : Half) (c lo : Nat) : Nat → Option (List Int)
  | 0 => some []
  | n + 1 =>
    match s.sample? h lo c, s.samples? h c (lo + 1) n with
    | some x, some xs => some (x :: xs)
    | _, _ => none

/-- Storing values as the samples `lo`, `lo + 1`, … of a channel. -/
def State.setSamples (s : State) (h : Half) (c lo : Nat) : List Int → State
  | [] => s
  | v :: vs => (s.setSample h lo c v).setSamples h c (lo + 1) vs

/-- `MemRead(XBUF, off + j, 1)` for `j` < `n` (R37). -/
def State.xbufBytes? (s : State) (off n : Nat) : Option (List Byte) :=
  Memory.readBytes unwritten s.xbuf off n

/-- `MemWrite(XBUF, off + j, 1, …)` (R37). -/
def State.setXbuf (s : State) (off : Nat) (bs : List Byte) : State :=
  { s with xbuf := Memory.setRange unwritten s.xbuf off bs }

/-- `NvRead(a)` (R12, R139): never faults. -/
def State.nvByte (s : State) (a : Nat) : Byte :=
  match Memory.lookup s.nv a with
  | some v => v
  | none => nvBlankByte s.cfg a

/-- The NV bytes `a`, …, `a + n - 1`. -/
def State.nvBytes (s : State) (a : Nat) : Nat → List Byte
  | 0 => []
  | n + 1 => s.nvByte a :: s.nvBytes (a + 1) n

/-- Storing NV bytes. -/
def State.setNv (s : State) (a : Nat) (bs : List Byte) : State :=
  { s with nv := Memory.setRange (nvBlank s.cfg) s.nv a bs }

/-- `TGT <- …` (R140): what the micro-step touches. -/
def State.setTgt (s : State) (g : TornTarget) : State := { s with tgt := g }

/-- `NV_OPT_WP <- v` (R140). -/
def State.setOptWp (s : State) (v : Word) : State := { s with nvOptWp := v }

/-- `NV_WP <- v` (R140). -/
def State.setWp (s : State) (v : Word) : State := { s with nvWp := v }

/-- The sector of an NV byte, given the sizes from some sector on (R139); the number of sectors if there is none. -/
def sectorFrom : List Nat → Nat → Nat
  | [], _ => 0
  | z :: zs, a => if a < z then 0 else 1 + sectorFrom zs (a - z)

/-- `sector(a)` (R139). -/
def State.sectorOf (s : State) (a : Nat) : Nat := sectorFrom s.cfg.sectorSizes a

/-- Bit `k` of a word set to `b` (R140, `NV_OPT_WP[k] <- bit`). -/
def setBit (v : Word) (k : Nat) (b : Bool) : Word :=
  let mask : Word := BitVec.ofNat 32 (2 ^ k)
  if b then v ||| mask else v &&& ~~~mask

end Sys2Proof.Machine
end

