-- ==== Sys2Proof/Machine/Agents.lean ====
section
/-! DEFINITION. The steps of PROD (R71, R72) and ENV (R158, R173). -/

namespace Sys2Proof.Machine

/-- 2·C·S, the elements of the ring buffer (R71). -/
def State.ringElems (s : State) : Nat := 2 * s.halfElems

/-- `WPTR` after a produce step (R71). -/
def State.nextWptr (s : State) : Nat := (s.wptr.toNat + 1) % s.ringElems

/-- The completions a produce step reaches (R71). -/
def State.reached (s : State) : List Completion :=
  (if s.nextWptr = s.halfElems then [.half] else []) ++ (if s.nextWptr = 0 then [.full] else [])

/-- PROD's produce step (R71): one drawn sample is written, the pointer advances. -/
def State.produceStep (s : State) : State :=
  { s.draw.2 with
    ring := Memory.setRange unwritten s.ring (s.wptr.toNat * s.elemBytes) (leBytes s.elemBytes s.draw.1)
    wptr := BitVec.ofNat 32 s.nextWptr
    fifo := s.fifo ++ s.reached }

/-- The half a completion names (R72). -/
def Completion.active : Completion → ActiveBuffer
  | .half => .first
  | .full => .second

/-- PROD's completion step (R72): the oldest completion is performed, whatever `ACTIVE` was. -/
def State.completeStep (s : State) : State :=
  match s.fifo with
  | e :: rest => { s with fifo := rest, active := e.active }
  | [] => s

/-- The NV tear of a power loss (R158): the target of the step just before may become draws. -/
def State.tear (s : State) : State :=
  match s.tgt with
  | .none => s
  | .bytes lo n =>
    let d := s.drawBool
    if d.1 then (d.2.drawBytes n).2.setNv lo (d.2.drawBytes n).1 else d.2
  | .optBit k =>
    let d := s.drawBool
    if d.1 then d.2.drawBool.2.setOptWp (setBit s.nvOptWp k d.2.drawBool.1) else d.2

/-- ENV's power-loss step (R173): tear, drop the composite, reset; NV and the stored options survive, and HOST starts
at its first line. -/
def State.powerLossStep (s : State) : State :=
  let t := s.tear
  .powerUp t.cfg t.nv t.nvOptWp t.drawTape t.drawCount t.schedule t.turnCount t.hostProgram

end Sys2Proof.Machine
end

