-- ==== Sys2Proof/WellFormed.lean ====
section
/-! DEFINITION. Which commands a block with given parameters has: the slot checks of R62 and R68. The other checks of
R68 (reserved opcodes, unused fields, `HALF` = 3) cannot be written down as a term of `Instr`. -/

namespace Sys2Proof

/-- The slot kinds of R62. -/
inductive SlotKind where
  | biquad
  | ema
  | notch
  | circularBuffer
  | movingAverage
  deriving DecidableEq, Repr

/-- The number of slots of a kind (R62). -/
def Params.slotCount (p : Params) : SlotKind → Nat
  | .biquad => p.nBq
  | .ema => p.nEma
  | .notch => p.nNotch
  | .circularBuffer => p.nCb
  | .movingAverage => p.nMa

/-- The slot kind and the `SLOT` field of a command that has one (R67). -/
def Instr.slot? : Instr → Option (SlotKind × Slot)
  | .acqInit => none
  | .acqLoop => none
  | .acqMean _ _ => none
  | .acqMeanLim _ _ => none
  | .acqMeanShift _ _ => none
  | .acqAbsMean _ _ => none
  | .acqRms _ _ => none
  | .acqTrueRms _ _ => none
  | .acqMax _ _ => none
  | .acqMin _ _ => none
  | .acqSetOffset _ _ => none
  | .acqCma _ _ => none
  | .acqPeakFwd _ _ => none
  | .acqPeakRev _ _ => none
  | .acqSineWin _ _ => none
  | .hannInit => none
  | .hannApply _ _ => none
  | .hannDirect _ _ => none
  | .bqInitBp j => some (.biquad, j)
  | .bqInitBs j => some (.biquad, j)
  | .bqInitLp j => some (.biquad, j)
  | .bqLoad j => some (.biquad, j)
  | .bqStep j => some (.biquad, j)
  | .emaInitFc j => some (.ema, j)
  | .emaInitAlpha j => some (.ema, j)
  | .emaStep j => some (.ema, j)
  | .notchInit j => some (.notch, j)
  | .notchStep j => some (.notch, j)
  | .cbInit j => some (.circularBuffer, j)
  | .cbPush j => some (.circularBuffer, j)
  | .cbGet j => some (.circularBuffer, j)
  | .cbMean j => some (.circularBuffer, j)
  | .cbMax j => some (.circularBuffer, j)
  | .arrMax j => some (.circularBuffer, j)
  | .arrMin j => some (.circularBuffer, j)
  | .arrSum j => some (.circularBuffer, j)
  | .arrMean j => some (.circularBuffer, j)
  | .maInit j => some (.movingAverage, j)
  | .maMean j => some (.movingAverage, j)
  | .maVar j => some (.movingAverage, j)
  | .maStd j => some (.movingAverage, j)
  | .gzInit => none
  | .gzFeed _ _ => none
  | .fftInit => none
  | .fftRun _ _ => none
  | .fftAbsMax _ => none
  | .crc4 => none
  | .crc8 => none
  | .crc32 => none
  | .nvUnlock => none
  | .nvLock => none
  | .nvObUnlock => none
  | .nvObLock => none
  | .nvWpSet _ => none
  | .nvObLaunch => none
  | .nvErase => none
  | .nvProgByte => none
  | .nvProgWord => none
  | .nvReadByte => none
  | .nvRead _ => none
  | .nvWrite _ => none
  | .otpRead => none
  | .otpWrite => none

/-- A command a block with these parameters has: its slot number is below the count of its kind (R62, R68). -/
def Instr.wf (p : Params) (i : Instr) : Bool :=
  match i.slot? with
  | none => true
  | some (k, j) => decide (j.toNat < p.slotCount k)

end Sys2Proof
end

