-- ==== Sys2Proof/Decode.lean ====
section
/-! DEFINITION. Decoding a command word (R59, R60, R68), total on every word, and the encoder written from the same
format table (R67). -/

namespace Sys2Proof

/-- The fields of a command word (R59). -/
structure Fields where
  /-- `OP`, bits [7:0]. -/
  op : BitVec 8
  /-- `HALF`, bits [9:8]. -/
  half : BitVec 2
  /-- `F0`, bit [10]. -/
  f0 : BitVec 1
  /-- `F1`, bit [11]. -/
  f1 : BitVec 1
  /-- `SLOT`, bits [15:12]. -/
  slot : BitVec 4
  /-- `CH`, bits [31:16]. -/
  ch : BitVec 16
  deriving DecidableEq, Repr

/-- Taking a word apart (R59). -/
def Fields.ofWord (v : Word) : Fields where
  op := v.extractLsb' 0 8
  half := v.extractLsb' 8 2
  f0 := v.extractLsb' 10 1
  f1 := v.extractLsb' 11 1
  slot := v.extractLsb' 12 4
  ch := v.extractLsb' 16 16

/-- Putting a word together (R59). -/
def Fields.toWord (f : Fields) : Word :=
  f.ch ++ f.slot ++ f.f1 ++ f.f0 ++ f.half ++ f.op

/-- The four formats of R67, each with the command its fields select. -/
inductive Format where
  /-- No field. -/
  | plain (i : Instr)
  /-- `HALF` and `CH`. -/
  | halfCh (mk : HalfSel → Chan → Instr)
  /-- `SLOT`. -/
  | slot (mk : Slot → Instr)
  /-- `F0`. -/
  | flag (mk : Bool → Instr)

/-- The opcode map (R67); every other opcode is reserved (R68). -/
def formatOf (op : Nat) : Option Format :=
  match op with
  | 0x01 => some (.plain .acqInit)
  | 0x02 => some (.plain .acqLoop)
  | 0x03 => some (.halfCh .acqMean)
  | 0x04 => some (.halfCh .acqMeanLim)
  | 0x05 => some (.halfCh .acqMeanShift)
  | 0x06 => some (.halfCh .acqAbsMean)
  | 0x07 => some (.halfCh .acqRms)
  | 0x08 => some (.halfCh .acqTrueRms)
  | 0x09 => some (.halfCh .acqMax)
  | 0x0A => some (.halfCh .acqMin)
  | 0x0B => some (.halfCh .acqSetOffset)
  | 0x0C => some (.halfCh .acqCma)
  | 0x0D => some (.halfCh .acqPeakFwd)
  | 0x0E => some (.halfCh .acqPeakRev)
  | 0x0F => some (.halfCh .acqSineWin)
  | 0x20 => some (.plain .hannInit)
  | 0x21 => some (.halfCh .hannApply)
  | 0x22 => some (.halfCh .hannDirect)
  | 0x30 => some (.slot .bqInitBp)
  | 0x31 => some (.slot .bqInitBs)
  | 0x32 => some (.slot .bqInitLp)
  | 0x33 => some (.slot .bqLoad)
  | 0x34 => some (.slot .bqStep)
  | 0x38 => some (.slot .emaInitFc)
  | 0x39 => some (.slot .emaInitAlpha)
  | 0x3A => some (.slot .emaStep)
  | 0x3C => some (.slot .notchInit)
  | 0x3D => some (.slot .notchStep)
  | 0x40 => some (.slot .cbInit)
  | 0x41 => some (.slot .cbPush)
  | 0x42 => some (.slot .cbGet)
  | 0x43 => some (.slot .cbMean)
  | 0x44 => some (.slot .cbMax)
  | 0x45 => some (.slot .arrMax)
  | 0x46 => some (.slot .arrMin)
  | 0x47 => some (.slot .arrSum)
  | 0x48 => some (.slot .arrMean)
  | 0x49 => some (.slot .maInit)
  | 0x4A => some (.slot .maMean)
  | 0x4B => some (.slot .maVar)
  | 0x4C => some (.slot .maStd)
  | 0x50 => some (.plain .gzInit)
  | 0x51 => some (.halfCh .gzFeed)
  | 0x60 => some (.plain .fftInit)
  | 0x61 => some (.halfCh .fftRun)
  | 0x62 => some (.flag .fftAbsMax)
  | 0x70 => some (.plain .crc4)
  | 0x71 => some (.plain .crc8)
  | 0x72 => some (.plain .crc32)
  | 0x80 => some (.plain .nvUnlock)
  | 0x81 => some (.plain .nvLock)
  | 0x82 => some (.plain .nvObUnlock)
  | 0x83 => some (.plain .nvObLock)
  | 0x84 => some (.flag .nvWpSet)
  | 0x85 => some (.plain .nvObLaunch)
  | 0x86 => some (.plain .nvErase)
  | 0x87 => some (.plain .nvProgByte)
  | 0x88 => some (.plain .nvProgWord)
  | 0x89 => some (.plain .nvReadByte)
  | 0x8A => some (.flag .nvRead)
  | 0x8B => some (.flag .nvWrite)
  | 0x8C => some (.plain .otpRead)
  | 0x8D => some (.plain .otpWrite)
  | _ => none

/-- `HALF` as the half selector it names; 3 is reserved (R61). -/
def halfSelOf (b : BitVec 2) : Option HalfSel :=
  match b.toNat with
  | 0 => some .first
  | 1 => some .second
  | 2 => some .last
  | _ => none

/-- The field checks of R68 but for the slot count: `F1` and every unused field must be 0. -/
def decodeFields (f : Fields) : Option Instr :=
  if f.f1 != 0 then none
  else match formatOf f.op.toNat with
    | none => none
    | some (.plain i) =>
      if f.half == 0 && f.f0 == 0 && f.slot == 0 && f.ch == 0 then some i else none
    | some (.halfCh mk) =>
      if f.f0 == 0 && f.slot == 0 then (halfSelOf f.half).map (fun h => mk h f.ch) else none
    | some (.slot mk) =>
      if f.half == 0 && f.f0 == 0 && f.ch == 0 then some (mk f.slot) else none
    | some (.flag mk) =>
      if f.half == 0 && f.slot == 0 && f.ch == 0 then some (mk (f.f0 == 1)) else none

/-- The command a word encodes, whatever the parameters. -/
def decodeWord (v : Word) : Option Instr := decodeFields (.ofWord v)

/-- R68 whole: the command a word encodes on a block with these parameters; `none` is the result code `ILLEGAL`. -/
def decode (p : Params) (v : Word) : Option Instr :=
  match decodeWord v with
  | some i => if i.wf p then some i else none
  | none => none

/-- The bits of a half selector (R61). -/
def HalfSel.bits : HalfSel → BitVec 2
  | .first => 0
  | .second => 1
  | .last => 2

/-- The word of a command with no field. -/
def Fields.plain (op : BitVec 8) : Fields := ⟨op, 0, 0, 0, 0, 0⟩
/-- The word of a command with `HALF` and `CH`. -/
def Fields.halfCh (op : BitVec 8) (h : HalfSel) (c : Chan) : Fields := ⟨op, h.bits, 0, 0, 0, c⟩
/-- The word of a command with `SLOT`. -/
def Fields.slotted (op : BitVec 8) (j : Slot) : Fields := ⟨op, 0, 0, 0, j, 0⟩
/-- The word of a command with `F0`. -/
def Fields.flagged (op : BitVec 8) (f0 : Bool) : Fields := ⟨op, 0, BitVec.ofBool f0, 0, 0, 0⟩

/-- The fields of a command (R67). -/
def Instr.fields : Instr → Fields
  | .acqInit => .plain 0x01
  | .acqLoop => .plain 0x02
  | .acqMean h c => .halfCh 0x03 h c
  | .acqMeanLim h c => .halfCh 0x04 h c
  | .acqMeanShift h c => .halfCh 0x05 h c
  | .acqAbsMean h c => .halfCh 0x06 h c
  | .acqRms h c => .halfCh 0x07 h c
  | .acqTrueRms h c => .halfCh 0x08 h c
  | .acqMax h c => .halfCh 0x09 h c
  | .acqMin h c => .halfCh 0x0A h c
  | .acqSetOffset h c => .halfCh 0x0B h c
  | .acqCma h c => .halfCh 0x0C h c
  | .acqPeakFwd h c => .halfCh 0x0D h c
  | .acqPeakRev h c => .halfCh 0x0E h c
  | .acqSineWin h c => .halfCh 0x0F h c
  | .hannInit => .plain 0x20
  | .hannApply h c => .halfCh 0x21 h c
  | .hannDirect h c => .halfCh 0x22 h c
  | .bqInitBp j => .slotted 0x30 j
  | .bqInitBs j => .slotted 0x31 j
  | .bqInitLp j => .slotted 0x32 j
  | .bqLoad j => .slotted 0x33 j
  | .bqStep j => .slotted 0x34 j
  | .emaInitFc j => .slotted 0x38 j
  | .emaInitAlpha j => .slotted 0x39 j
  | .emaStep j => .slotted 0x3A j
  | .notchInit j => .slotted 0x3C j
  | .notchStep j => .slotted 0x3D j
  | .cbInit j => .slotted 0x40 j
  | .cbPush j => .slotted 0x41 j
  | .cbGet j => .slotted 0x42 j
  | .cbMean j => .slotted 0x43 j
  | .cbMax j => .slotted 0x44 j
  | .arrMax j => .slotted 0x45 j
  | .arrMin j => .slotted 0x46 j
  | .arrSum j => .slotted 0x47 j
  | .arrMean j => .slotted 0x48 j
  | .maInit j => .slotted 0x49 j
  | .maMean j => .slotted 0x4A j
  | .maVar j => .slotted 0x4B j
  | .maStd j => .slotted 0x4C j
  | .gzInit => .plain 0x50
  | .gzFeed h c => .halfCh 0x51 h c
  | .fftInit => .plain 0x60
  | .fftRun h c => .halfCh 0x61 h c
  | .fftAbsMax f0 => .flagged 0x62 f0
  | .crc4 => .plain 0x70
  | .crc8 => .plain 0x71
  | .crc32 => .plain 0x72
  | .nvUnlock => .plain 0x80
  | .nvLock => .plain 0x81
  | .nvObUnlock => .plain 0x82
  | .nvObLock => .plain 0x83
  | .nvWpSet f0 => .flagged 0x84 f0
  | .nvObLaunch => .plain 0x85
  | .nvErase => .plain 0x86
  | .nvProgByte => .plain 0x87
  | .nvProgWord => .plain 0x88
  | .nvReadByte => .plain 0x89
  | .nvRead f0 => .flagged 0x8A f0
  | .nvWrite f0 => .flagged 0x8B f0
  | .otpRead => .plain 0x8C
  | .otpWrite => .plain 0x8D

/-- The word of a command (R59, R67). -/
def encode (i : Instr) : Word := i.fields.toWord

/-- The command read from an instruction of `nbits` bits whose bits are `w`: the bits above `nbits` are 0, and the
word stands in memory as four bytes, the least significant first (R44), which is how the HOST stores it to `CMD`. -/
def decodeTableWord (nbits w : Nat) : Option Instr :=
  let v := w % 2 ^ nbits
  let b0 : Byte := BitVec.ofNat 8 v
  let b1 : Byte := BitVec.ofNat 8 (v / 2 ^ 8)
  let b2 : Byte := BitVec.ofNat 8 (v / 2 ^ 16)
  let b3 : Byte := BitVec.ofNat 8 (v / 2 ^ 24)
  decodeWord (b3 ++ b2 ++ b1 ++ b0)

end Sys2Proof
end

