-- ==== Sys2Proof/Machine/Operands.lean ====
section
/-! DEFINITION. Operand forms: the `HALF` operand (R61), register operands (R65), the accessor guard (R76). -/

namespace Sys2Proof.Machine

/-- The half `LAST` names; `none` is NULL (R61). -/
def ActiveBuffer.half? : ActiveBuffer → Option Half
  | .notAvailable => none
  | .first => some .first
  | .second => some .second

/-- `resolveHalf(HALF)` (R61); `none` is NULL. -/
def State.resolveHalf (s : State) : HalfSel → Option Half
  | .first => some .first
  | .second => some .second
  | .last => s.last.half?

/-- `u32(ARG[n])` (R65). -/
def u32 (w : Word) : Nat := w.toNat

/-- `i32(ARG[n])` (R65). -/
def i32 (w : Word) : Int := w.toInt

/-- `f32(ARG[n])` (R65): the register's bits. -/
def f32 (w : Word) : F32 := w

/-- `toF64(f32(ARG[n]))` (R97). -/
def f64 (w : Word) : F64 := F64.ofF32 w

/-- `u8(ARG[n])` (R65): bits [7:0]. -/
def u8 (w : Word) : Byte := w.extractLsb' 0 8

/-- The accessor guard (R76): the half the command works on, or `none` for the default result. -/
def State.accessorHalf (s : State) (h : HalfSel) (c : Chan) : Option Half :=
  if s.active = .notAvailable ∨ s.acqC.toNat ≤ c.toNat then none else s.resolveHalf h

/-- The half and channel check of R95, R96, R112 and R115, which does not look at `ACTIVE`. -/
def State.channelHalf (s : State) (h : HalfSel) (c : Chan) : Option Half :=
  if s.acqC.toNat ≤ c.toNat then none else s.resolveHalf h

end Sys2Proof.Machine
end

