-- ==== Sys2Proof/Machine/Acquisition.lean ====
section
/-! DEFINITION. The acquisition commands, 41_acquisition.md R74–R91. -/

namespace Sys2Proof.Machine

/-- Whether `ACQ_INIT` rejects a geometry (R74). -/
def acqInitRejects (cfg : Params) (c n wc : Nat) : Bool :=
  decide (1 < wc ∨ c = 0 ∨ 65536 < c ∨ n = 0 ∨ cfg.ringBytes < 2 * c * n * (if wc = 0 then 2 else 4))

/-- `ACQ_INIT` (R74). -/
def execAcqInit (s : State) : Result :=
  s.withArg 0 fun c => s.withArg 1 fun n => s.withArg 2 fun wc =>
    if acqInitRejects s.cfg (u32 c) (u32 n) (u32 wc) then s.finish .arg
    else State.finish
      { s with
        acqC := c, acqS := n, w32 := decide (u32 wc = 1), armed := true, wptr := 0, fifo := []
        active := .notAvailable, last := .notAvailable } .ok

/-- `ACQ_LOOP` (R75): read, compare and write are one step. -/
def execAcqLoop (s : State) : Result :=
  if s.active ≠ s.last then
    State.finish
      (((({ s with last := s.active }.setRes 0 1).setRes 1 (if s.active = ActiveBuffer.first then 0 else 1)).setRes 2 s.acqC).setRes
        3 s.acqS) .ok
  else (s.setRes 0 0).finish .ok

/-- The frame of every accessor 0x03–0x0F after its operand reads (R76): the default result, or the work on a half. -/
def State.accessor (s : State) (h : HalfSel) (c : Chan) (dflt : Result) (work : Half → Result) : Result :=
  match s.accessorHalf h c with
  | none => dflt
  | some hf => work hf

/-- `toF64(sum) /64 toF64(n)` (R78). -/
def meanOf (sum : Int) (n : Nat) : F64 := F64.div (F64.ofInt sum) (F64.ofInt n)

/-- The sum of the absolute values (R81). -/
def absSum (xs : List Int) : Int := (xs.map fun x => (x.natAbs : Int)).sum

/-- The sum of the squares (R82). -/
def squareSum (xs : List Int) : Int := (xs.map fun x => x * x).sum

/-- The largest square (R82). -/
def maxSquare (xs : List Int) : Nat := xs.foldl (fun m x => max m (x.natAbs * x.natAbs)) 0

/-- The root mean square of samples (R82, R83): a draw where a 64-bit accumulator may overflow. -/
def State.rmsOf (s : State) (xs : List Int) : F64 × State :=
  if xs.length * maxSquare xs < 2 ^ 63 then (F64.sqrt (meanOf (squareSum xs) xs.length), s)
  else s.drawBits 64

/-- `ACQ_MEAN` (R78). -/
def execAcqMean (h : HalfSel) (c : Chan) (s : State) : Result :=
  s.accessor h c (s.finish64 0) fun hf =>
    s.withData (s.samples? hf c.toNat 0 s.acqS.toNat) fun xs => s.finish64 (meanOf xs.sum s.acqS.toNat)

/-- `ACQ_MEANLIM` (R79): b = e gives 0, as does a reversed or out-of-range window. -/
def execAcqMeanLim (h : HalfSel) (c : Chan) (s : State) : Result :=
  s.withArg 0 fun b => s.withArg 1 fun e =>
    s.accessor h c (s.finish64 0) fun hf =>
      if u32 b = u32 e ∨ u32 e < u32 b ∨ s.acqS.toNat ≤ u32 e then s.finish64 0
      else s.withData (s.samples? hf c.toNat (u32 b) (u32 e - u32 b + 1)) fun xs =>
        s.finish64 (meanOf xs.sum (u32 e - u32 b + 1))

/-- `sum >>s k` (R80): toward minus infinity, every `k`. -/
def shiftSum (sum : Int) (k : Nat) : Int :=
  if 64 ≤ k then (if sum < 0 then -1 else 0) else sum / 2 ^ k

/-- `ACQ_MEANSHIFT` (R80). -/
def execAcqMeanShift (h : HalfSel) (c : Chan) (s : State) : Result :=
  s.withArg 0 fun k =>
    s.accessor h c (s.finish64 0) fun hf =>
      s.withData (s.samples? hf c.toNat 0 s.acqS.toNat) fun xs =>
        s.finish64 (BitVec.ofInt 64 (shiftSum xs.sum (u32 k)))

/-- `ACQ_ABSMEAN` (R81). -/
def execAcqAbsMean (h : HalfSel) (c : Chan) (s : State) : Result :=
  s.accessor h c (s.finish64 0) fun hf =>
    s.withData (s.samples? hf c.toNat 0 s.acqS.toNat) fun xs => s.finish64 (meanOf (absSum xs) s.acqS.toNat)

/-- `ACQ_RMS` (R82). -/
def execAcqRms (h : HalfSel) (c : Chan) (s : State) : Result :=
  s.accessor h c (s.finish64 0) fun hf =>
    s.withData (s.samples? hf c.toNat 0 s.acqS.toNat) fun xs => (s.rmsOf xs).2.finish64 (s.rmsOf xs).1

/-- `ACQ_TRUERMS` (R83): b = e is computed. -/
def execAcqTrueRms (h : HalfSel) (c : Chan) (s : State) : Result :=
  s.withArg 0 fun b => s.withArg 1 fun e =>
    s.accessor h c (s.finish64 0) fun hf =>
      if u32 e < u32 b ∨ s.acqS.toNat ≤ u32 e then s.finish64 0
      else s.withData (s.samples? hf c.toNat (u32 b) (u32 e - u32 b + 1)) fun xs =>
        (s.rmsOf xs).2.finish64 (s.rmsOf xs).1

/-- The first largest of samples (R84); the samples of a channel are never none (log 25). -/
def maxOf : List Int → Int
  | [] => 0
  | x :: xs => xs.foldl (fun m y => if m < y then y else m) x

/-- The first smallest of samples (R85). -/
def minOf : List Int → Int
  | [] => 0
  | x :: xs => xs.foldl (fun m y => if y < m then y else m) x

/-- `ACQ_MAX` (R84). -/
def execAcqMax (h : HalfSel) (c : Chan) (s : State) : Result :=
  s.accessor h c (s.finish32 0) fun hf =>
    s.withData (s.samples? hf c.toNat 0 s.acqS.toNat) fun xs => s.finish32 (BitVec.ofInt 32 (maxOf xs))

/-- `ACQ_MIN` (R85). -/
def execAcqMin (h : HalfSel) (c : Chan) (s : State) : Result :=
  s.accessor h c (s.finish32 0) fun hf =>
    s.withData (s.samples? hf c.toNat 0 s.acqS.toNat) fun xs => s.finish32 (BitVec.ofInt 32 (minOf xs))

/-- `ACQ_SETOFFSET` (R86): `SetE` wraps to W bits. -/
def execAcqSetOffset (h : HalfSel) (c : Chan) (s : State) : Result :=
  s.withArg 0 fun o =>
    s.accessor h c (s.finish .ok) fun hf =>
      s.withData (s.samples? hf c.toNat 0 s.acqS.toNat) fun xs =>
        (s.setSamples hf c.toNat 0 (xs.map fun x => x + i32 o)).finish .ok

/-- The successive averages of R87: division truncates toward zero. -/
def cmaSeq (k : Nat) (cma : Int) : List Int → List Int
  | [] => []
  | x :: xs =>
    let next := cma + Int.tdiv (x - cma) (k + 1)
    next :: cmaSeq k next xs

/-- `ACQ_CMA` (R87). -/
def execAcqCma (h : HalfSel) (c : Chan) (s : State) : Result :=
  s.withArg 0 fun cma => s.withArg 1 fun k =>
    s.accessor h c (s.finish32 0) fun hf =>
      s.withData (s.samples? hf c.toNat 0 s.acqS.toNat) fun xs =>
        let out := cmaSeq (u32 k) (i32 cma) xs
        (s.setSamples hf c.toNat 0 out).finish32 (BitVec.ofInt 32 (out.getLastD (i32 cma)))

/-- `rising(x[i], x[i+1])` (R88); `none` if one of the two is unwritten. -/
def State.rising? (s : State) (h : Half) (c i : Nat) : Option Bool :=
  match s.sample? h i c, s.sample? h (i + 1) c with
  | some a, some b => some (decide (0 < b - a))
  | _, _ => none

/-- The first index of a list at which a direction differs from `dir`, reading no further: `some none` if there is no
such index, `none` if an unwritten sample is read first. -/
def firstFlip (rising : Nat → Option Bool) (dir : Bool) : List Nat → Option (Option Nat)
  | [] => some none
  | i :: is =>
    match rising i with
    | none => none
    | some d => if d != dir then some (some i) else firstFlip rising dir is

/-- The forward peak search (R89); `none` is an unwritten sample. -/
def State.peakFwd? (s : State) (h : Half) (c : Nat) : Option Nat :=
  let n := s.acqS.toNat
  if n < 2 then some 0
  else match s.rising? h c 0 with
    | none => none
    | some dir =>
      match firstFlip (s.rising? h c) dir ((List.range (n - 2)).map (· + 1)) with
      | none => none
      | some r => some (r.getD 0)

/-- The backward peak search (R90); `none` is an unwritten sample. -/
def State.peakRev? (s : State) (h : Half) (c : Nat) : Option Nat :=
  let n := s.acqS.toNat
  if n < 2 then some (n - 1)
  else match s.rising? h c (n - 2) with
    | none => none
    | some dir =>
      match firstFlip (fun i => s.rising? h c (i - 1)) dir ((List.range (n - 2)).map (· + 1)).reverse with
      | none => none
      | some r => some (r.getD (n - 1))

/-- `ACQ_PEAKFWD` (R89). -/
def execAcqPeakFwd (h : HalfSel) (c : Chan) (s : State) : Result :=
  s.accessor h c (s.finish32 0) fun hf =>
    s.withData (s.peakFwd? hf c.toNat) fun r => s.finish32 (BitVec.ofNat 32 r)

/-- `ACQ_PEAKREV` (R90). -/
def execAcqPeakRev (h : HalfSel) (c : Chan) (s : State) : Result :=
  s.accessor h c (s.finish32 0) fun hf =>
    s.withData (s.peakRev? hf c.toNat) fun r => s.finish32 (BitVec.ofNat 32 r)

/-- `ACQ_SINEWIN` (R91). -/
def execAcqSineWin (h : HalfSel) (c : Chan) (s : State) : Result :=
  s.accessor h c (((s.setRes 0 0).setRes 1 0).finish .ok) fun hf =>
    s.withData (s.peakFwd? hf c.toNat) fun b =>
      s.withData (s.peakRev? hf c.toNat) fun e =>
        ((s.setRes 0 (BitVec.ofNat 32 b)).setRes 1 (BitVec.ofNat 32 e)).finish .ok

end Sys2Proof.Machine
end

