-- ==== Sys2Proof/Machine/Crc.lean ====
section
/-! DEFINITION. The CRC generators, 47_crc.md R133–R138. -/

namespace Sys2Proof.Machine

/-- One bit of the CRC of width `w` (R134). -/
def crcBit {w : Nat} (p : BitVec w) (crc : BitVec w) (b : Bool) : BitVec w :=
  if crc.msb != b then (crc <<< 1) ^^^ p else crc <<< 1

/-- One byte, most significant bit first (R134). -/
def crcByte {w : Nat} (p : BitVec w) (crc : BitVec w) (b : Byte) : BitVec w :=
  [7, 6, 5, 4, 3, 2, 1, 0].foldl (fun c j => crcBit p c (b.getLsbD j)) crc

/-- `crcw(p, v, bytes)` (R134). -/
def crcw {w : Nat} (p v : BitVec w) (bytes : List Byte) : BitVec w := bytes.foldl (crcByte p) v

/-- One round of the default CRC-32 (R137). -/
def crc32Bit (crc : Word) : Word := if crc.msb then (crc <<< 1) ^^^ 0x04C11DB7 else crc <<< 1

/-- `n` rounds. -/
def crc32Bits : Nat → Word → Word
  | 0, crc => crc
  | n + 1, crc => crc32Bits n (crc32Bit crc)

/-- `crc32default(words)` (R137). -/
def crc32Default (ws : List Word) : Word := ws.foldl (fun crc d => crc32Bits 32 (crc ^^^ d)) 0xFFFFFFFF

/-- `CRC32_FN` (R137): the default, or the uninterpreted function. Log 16. -/
def crc32Fn (cfg : Params) (ws : List Word) : Word :=
  if cfg.crc32IsDefault then crc32Default ws else Config.crc32Custom ws

/-- The common form of the CRC commands (R133): the range check, then the data bytes. -/
def State.crcCommand (s : State) (lenOk : Nat → Bool) (value : List Byte → Word) : Result :=
  s.withArg 0 fun xoff => s.withArg 1 fun len =>
    if s.cfg.xbufBytes < u32 xoff + u32 len then s.finish .arg
    else if !lenOk (u32 len) then s.finish .arg
    else s.withData (s.xbufBytes? (u32 xoff) (u32 len)) fun bs => s.finish32 (value bs)

/-- `CRC4` (R135). -/
def execCrc4 (s : State) : Result :=
  s.crcCommand (fun _ => true) fun bs => (crcw s.crc4Poly s.crc4Init bs).setWidth 32

/-- `CRC8` (R136). -/
def execCrc8 (s : State) : Result :=
  s.crcCommand (fun _ => true) fun bs => (crcw s.crc8Poly s.crc8Init bs).setWidth 32

/-- `CRC32` (R138). -/
def execCrc32 (s : State) : Result :=
  s.crcCommand (fun len => len % 4 == 0) fun bs => crc32Fn s.cfg (leWords bs)

end Sys2Proof.Machine
end

