-- ==== Sys2Proof/Machine/Fft.lean ====
section
/-! DEFINITION. The FFT wrapper commands, 45_fft.md R113–R116. -/

namespace Sys2Proof.Machine

/-- `FFT_FN(n, input)` (R113): 2·n int16 values, about which nothing is assumed. -/
def fftFn (n : Nat) (input : List (BitVec 16)) : List (BitVec 16) :=
  (List.range (2 * n)).map fun k => Config.fftEntry n input k

/-- `FFT_INIT` (R114). -/
def execFftInit (s : State) : Result :=
  s.withArg 0 fun n =>
    if u32 n ∈ s.cfg.fftLengths then
      State.finish { s with fftLen := n, tab := Memory.clearRange s.tab 0 (4 * u32 n) } .ok
    else s.finish .arg

/-- The bytes of int16 values, in order (R43, R44). -/
def int16Bytes (xs : List (BitVec 16)) : List Byte := xs.flatMap fun x => leBytes 2 x.toNat

/-- The window offset `FFT_RUN` returns (R115). -/
def fftTabOffset : Word := 0x210000

/-- `FFT_RUN` (R115). -/
def execFftRun (h : HalfSel) (c : Chan) (s : State) : Result :=
  if s.fftLen = 0 then s.finish .notInit
  else match s.channelHalf h c with
    | none => s.finish .arg
    | some hf =>
      if s.w32 ∨ s.acqS.toNat < s.fftLen.toNat then s.finish .arg
      else s.withData (s.samples? hf c.toNat 0 s.fftLen.toNat) fun xs =>
        State.finish32
          { s with
            tab := Memory.setRange unwritten s.tab 0
              (int16Bytes (fftFn s.fftLen.toNat (xs.map fun x => BitVec.ofInt 16 x))) } fftTabOffset

/-- `TAB[i]`, …, `TAB[i + n - 1]` as integers; `none` if a byte is unwritten (R34). -/
def State.tabEntries? (s : State) (i : Nat) : Nat → Option (List Int)
  | 0 => some []
  | n + 1 =>
    match Memory.readBytes unwritten s.tab (2 * i) 2, s.tabEntries? (i + 1) n with
    | some bs, some xs => some (Int.bmod (leNat bs) (2 ^ 16) :: xs)
    | _, _ => none

/-- The scan of R116 from index `i` on, with the best index and value so far: the first occurrence wins. -/
def absMaxFrom (best : Nat × Nat) (i : Nat) : List Int → Nat × Nat
  | [] => best
  | x :: xs => absMaxFrom (if best.2 < x.natAbs then (i, x.natAbs) else best) (i + 1) xs

/-- Index and magnitude of the first largest entry (R116). -/
def absMaxOf : List Int → Nat × Nat
  | [] => (0, 0)
  | x :: xs => absMaxFrom (0, x.natAbs) 1 xs

/-- End-point rejection (R116, `F0` = 1). -/
def rejectEndpoints (f0 : Bool) (size : Nat) (r : Nat × Nat) : Nat × Nat :=
  if f0 ∧ (r.1 = 0 ∨ r.1 = size - 1) then (0, 0) else r

/-- `FFT_ABSMAX` (R116). -/
def execFftAbsMax (f0 : Bool) (s : State) : Result :=
  s.withArg 0 fun size =>
    if s.fftLen = 0 then s.finish .notInit
    else if 2 * s.fftLen.toNat < u32 size then s.finish .arg
    else s.withData (s.tabEntries? 0 (u32 size)) fun xs =>
      let r := rejectEndpoints f0 (u32 size) (absMaxOf xs)
      ((s.setRes 0 (BitVec.ofNat 32 r.1)).setRes 1 (BitVec.ofNat 32 r.2)).finish .ok

end Sys2Proof.Machine
end

