-- ==== Sys2Proof/Machine/Fir.lean ====
section
/-! DEFINITION. The circular-buffer, array and moving-average commands, 46_fir_moving_average.md R117–R132. -/

namespace Sys2Proof.Machine

/-- `rsum` (R117): ascending, from +0.0. -/
def rsum (a : List F32) : F32 := a.foldl F32.add F32.zero

/-- `toF32(n)` of a count. -/
def f32OfNat (n : Nat) : F32 := F32.ofInt n

/-- `rmean` (R117). -/
def rmean (a : List F32) : F32 := F32.div (rsum a) (f32OfNat a.length)

/-- `rmax` (R117); the sequences of the rules are never empty. -/
def rmax : List F32 → F32
  | [] => F32.zero
  | x :: xs => xs.foldl (fun m y => if F32.lt m y then y else m) x

/-- `rmin` (R117). -/
def rmin : List F32 → F32
  | [] => F32.zero
  | x :: xs => xs.foldl (fun m y => if F32.lt y m then y else m) x

/-- A circular-buffer slot. -/
def State.cbSlot (s : State) (j : Slot) : CircBuf := s.cb[j.toNat]'j.isLt

/-- Storing a circular-buffer slot. -/
def State.setCb (s : State) (j : Slot) (b : CircBuf) : State := { s with cb := s.cb.set j.toNat b j.isLt }

/-- A moving-average slot. -/
def State.maSlot (s : State) (j : Slot) : MovAvg := s.ma[j.toNat]'j.isLt

/-- Storing a moving-average slot. -/
def State.setMa (s : State) (j : Slot) (m : MovAvg) : State := { s with ma := s.ma.set j.toNat m j.isLt }

/-- `buf[k]`; every index a rule uses is inside the array. -/
def CircBuf.at (b : CircBuf) (k : Nat) : F32 := b.buf.getD k F32.zero

/-- `buf[lo .. hi)`. -/
def CircBuf.slice (b : CircBuf) (lo hi : Nat) : List F32 := (List.range (hi - lo)).map fun k => b.at (lo + k)

/-- `L <- len; buf[0 .. len) <- +0.0; i <- 0` (R122, R128). -/
def CircBuf.init (b : CircBuf) (len : Nat) : CircBuf :=
  ⟨len, List.replicate len F32.zero ++ b.buf.drop len, 0⟩

/-- `buf[i] <- x; i <- (i + 1) mod L` (R123, R129). -/
def CircBuf.push (b : CircBuf) (x : F32) : CircBuf :=
  { b with buf := b.buf.set b.idx x, idx := (b.idx + 1) % b.len }

/-- Element `k` by age, 0 the oldest (R124). -/
def CircBuf.byAge (b : CircBuf) (k : Nat) : F32 := b.at ((b.idx + k) % b.len)

/-- The window of the newest `n` elements (R125): one segment, or two where it wraps. -/
def CircBuf.window (b : CircBuf) (n : Nat) : List F32 × Option (List F32) :=
  let start := (b.idx + b.len - n) % b.len
  if n ≤ b.idx ∨ b.idx = 0 then (b.slice start (start + n), none)
  else (b.slice start b.len, some (b.slice 0 b.idx))

/-- The mean of a window (R126): two subsums where it wraps. -/
def windowMean (n : Nat) : List F32 × Option (List F32) → F32
  | (seg, none) => rmean seg
  | (seg1, some seg2) => F32.div (F32.add (rsum seg1) (rsum seg2)) (f32OfNat n)

/-- The maximum of a window (R127). -/
def windowMax : List F32 × Option (List F32) → F32
  | (seg, none) => rmax seg
  | (seg1, some seg2) => rmax (seg1 ++ seg2)

/-- The common form of the queries over the first or newest `n` elements of a slot (R118–R121, R126, R127):
NOT_INIT, then ARG for n = 0 or n > L, then the value in `RES0`. -/
def State.cbQuery (s : State) (j : Slot) (value : CircBuf → Nat → F32) : Result :=
  s.withArg 0 fun n =>
    let b := s.cbSlot j
    if b.len = 0 then s.finish .notInit
    else if u32 n = 0 ∨ b.len < u32 n then s.finish .arg
    else s.finish32 (value b (u32 n))

/-- `ARR_MAX` (R118): index order. -/
def execArrMax (j : Slot) (s : State) : Result := s.cbQuery j fun b n => rmax (b.slice 0 n)

/-- `ARR_MIN` (R119). -/
def execArrMin (j : Slot) (s : State) : Result := s.cbQuery j fun b n => rmin (b.slice 0 n)

/-- `ARR_SUM` (R120). -/
def execArrSum (j : Slot) (s : State) : Result := s.cbQuery j fun b n => rsum (b.slice 0 n)

/-- `ARR_MEAN` (R121). -/
def execArrMean (j : Slot) (s : State) : Result := s.cbQuery j fun b n => rmean (b.slice 0 n)

/-- `CB_MEAN` (R126). -/
def execCbMean (j : Slot) (s : State) : Result := s.cbQuery j fun b n => windowMean n (b.window n)

/-- `CB_MAX` (R127). -/
def execCbMax (j : Slot) (s : State) : Result := s.cbQuery j fun b n => windowMax (b.window n)

/-- `CB_INIT` (R122). -/
def execCbInit (j : Slot) (s : State) : Result :=
  s.withArg 0 fun len =>
    if u32 len = 0 ∨ s.cfg.cbMaxL < u32 len then s.finish .arg
    else (s.setCb j ((s.cbSlot j).init (u32 len))).finish .ok

/-- `CB_PUSH` (R123). -/
def execCbPush (j : Slot) (s : State) : Result :=
  s.withArg 0 fun x =>
    if (s.cbSlot j).len = 0 then s.finish .notInit
    else (s.setCb j ((s.cbSlot j).push (f32 x))).finish .ok

/-- `CB_GET` (R124). -/
def execCbGet (j : Slot) (s : State) : Result :=
  s.withArg 0 fun k =>
    let b := s.cbSlot j
    if b.len = 0 then s.finish .notInit
    else if b.len ≤ u32 k then s.finish .arg
    else s.finish32 (b.byAge (u32 k))

/-- `MA_INIT` (R128). -/
def execMaInit (j : Slot) (s : State) : Result :=
  s.withArg 0 fun len =>
    if u32 len < 2 ∨ s.cfg.maMaxL < u32 len then s.finish .arg
    else (s.setMa j ⟨(s.maSlot j).cb.init (u32 len), F32.zero, F32.zero, F32.zero⟩).finish .ok

/-- `maPush(x)` (R129). -/
def MovAvg.push (m : MovAvg) (x : F32) : MovAvg :=
  let xo := m.cb.at m.cb.idx
  let sum' := F32.add (F32.sub m.sum xo) x
  let mean' := F32.div sum' (f32OfNat m.cb.len)
  let varSum' :=
    F32.add m.varSum (F32.mul (F32.sub (F32.sub (F32.add x xo) m.mean) mean') (F32.sub x xo))
  ⟨m.cb.push x, sum', varSum', mean'⟩

/-- The sample variance (R131). -/
def MovAvg.variance (m : MovAvg) : F32 := F32.div m.varSum (f32OfNat (m.cb.len - 1))

/-- The common form of the moving-average steps: NOT_INIT, else push and return a value of the new state. -/
def State.maStep (s : State) (j : Slot) (value : MovAvg → F32) : Result :=
  s.withArg 0 fun x =>
    if (s.maSlot j).cb.len = 0 then s.finish .notInit
    else (s.setMa j ((s.maSlot j).push (f32 x))).finish32 (value ((s.maSlot j).push (f32 x)))

/-- `MA_MEAN` (R130). -/
def execMaMean (j : Slot) (s : State) : Result := s.maStep j fun m => m.mean

/-- `MA_VAR` (R131). -/
def execMaVar (j : Slot) (s : State) : Result := s.maStep j fun m => m.variance

/-- `MA_STD` (R132). -/
def execMaStd (j : Slot) (s : State) : Result := s.maStep j fun m => F32.sqrt m.variance

end Sys2Proof.Machine
end

