-- ==== Sys2Proof/Machine/Iir.lean ====
section
/-! DEFINITION. The IIR filter commands, 43_iir.md R97–R109: coefficients in f64, rounded once to f32; steps in f32,
each operation rounded, in the written order. -/

namespace Sys2Proof.Machine

/-- The design parameters shared by the biquad inits (R99). -/
structure BiquadDesign where
  cs : F64
  al : F64
  sc : F64
  m2c : F64
  a2v : F64
  deriving DecidableEq, Repr

/-- `2.0 *64 π` -/
def twoPi : F64 := F64.mul F64.two F64.pi

/-- `w0` (R99). -/
def biquadW0 (ts fc : F64) : F64 := F64.mul (F64.mul twoPi fc) ts

/-- `bwo` (R99). -/
def biquadBwo (fc bw : F64) : F64 :=
  Config.log2 (F64.div (F64.add fc (F64.div bw F64.two)) (F64.sub fc (F64.div bw F64.two)))

/-- `al` (R99), from `w0`, `bwo` and `sn`. -/
def biquadAl (w0 bwo sn : F64) : F64 :=
  F64.mul sn (Config.sinh (F64.div (F64.mul (F64.mul (F64.mul F64.half (Config.ln F64.two)) bwo) w0) sn))

/-- R99. -/
def biquadDesign (ts fc bw : F64) : BiquadDesign :=
  let w0 := biquadW0 ts fc
  let cs := Config.cos w0
  let al := biquadAl w0 (biquadBwo fc bw) (Config.sin w0)
  let sc := F64.div F64.one (F64.add F64.one al)
  { cs := cs
    al := al
    sc := sc
    m2c := F64.mul (F64.mul F64.minusTwo cs) sc
    a2v := F64.mul (F64.sub F64.one al) sc }

/-- A biquad slot with the given coefficients and zeroed delay lines (R100–R103). -/
def Biquad.fresh (b0 b1 b2 a1 a2 : F32) : Biquad :=
  ⟨true, b0, b1, b2, a1, a2, F32.zero, F32.zero, F32.zero, F32.zero, F32.zero, F32.zero⟩

/-- Storing a biquad slot. -/
def State.setBq (s : State) (j : Slot) (f : Biquad) : State := { s with bq := s.bq.set j.toNat f j.isLt }

/-- Storing an EMA slot. -/
def State.setEma (s : State) (j : Slot) (f : Ema) : State := { s with ema := s.ema.set j.toNat f j.isLt }

/-- Storing a notch slot. -/
def State.setNotch (s : State) (j : Slot) (f : Notch) : State := { s with notch := s.notch.set j.toNat f j.isLt }

/-- A biquad slot. -/
def State.bqSlot (s : State) (j : Slot) : Biquad := s.bq[j.toNat]'j.isLt

/-- An EMA slot. -/
def State.emaSlot (s : State) (j : Slot) : Ema := s.ema[j.toNat]'j.isLt

/-- A notch slot. -/
def State.notchSlot (s : State) (j : Slot) : Notch := s.notch[j.toNat]'j.isLt

/-- The band-pass slot of a design (R100). -/
def BiquadDesign.bandPass (d : BiquadDesign) : Biquad :=
  .fresh (F32.ofF64 (F64.mul d.al d.sc)) F32.zero (F32.ofF64 (F64.neg (F64.mul d.al d.sc)))
    (F32.ofF64 d.m2c) (F32.ofF64 d.a2v)

/-- The band-stop slot of a design (R101). -/
def BiquadDesign.bandStop (d : BiquadDesign) : Biquad :=
  .fresh (F32.ofF64 d.sc) (F32.ofF64 d.m2c) (F32.ofF64 d.sc) (F32.ofF64 d.m2c) (F32.ofF64 d.a2v)

/-- The low-pass slot of a design (R102). -/
def BiquadDesign.lowPass (d : BiquadDesign) : Biquad :=
  let b0 := F32.ofF64 (F64.mul (F64.mul F64.half (F64.sub F64.one d.cs)) d.sc)
  .fresh b0 (F32.ofF64 (F64.mul (F64.sub F64.one d.cs) d.sc)) b0 (F32.ofF64 d.m2c) (F32.ofF64 d.a2v)

/-- A design init (R100–R102): reads `ts`, `fc`, `bw`, fills the slot. -/
def State.biquadInit (s : State) (j : Slot) (shape : BiquadDesign → Biquad) : Result :=
  s.withArg 0 fun ts => s.withArg 1 fun fc => s.withArg 2 fun bw =>
    (s.setBq j (shape (biquadDesign (f64 ts) (f64 fc) (f64 bw)))).finish .ok

/-- `BQ_INIT_BP` (R100). -/
def execBqInitBp (j : Slot) (s : State) : Result := s.biquadInit j BiquadDesign.bandPass

/-- `BQ_INIT_BS` (R101). -/
def execBqInitBs (j : Slot) (s : State) : Result := s.biquadInit j BiquadDesign.bandStop

/-- `BQ_INIT_LP` (R102). -/
def execBqInitLp (j : Slot) (s : State) : Result := s.biquadInit j BiquadDesign.lowPass

/-- `BQ_LOAD` (R103). -/
def execBqLoad (j : Slot) (s : State) : Result :=
  s.withArg 0 fun b0 => s.withArg 1 fun b1 => s.withArg 2 fun b2 => s.withArg 3 fun a1 => s.withArg 4 fun a2 =>
    (s.setBq j (.fresh (f32 b0) (f32 b1) (f32 b2) (f32 a1) (f32 a2))).finish .ok

/-- The output of a Direct-Form-I step on input `x` (R104). -/
def Biquad.output (f : Biquad) (x : F32) : F32 :=
  F32.sub (F32.sub (F32.add (F32.add (F32.mul f.b0 x) (F32.mul f.b1 f.x1)) (F32.mul f.b2 f.x2))
    (F32.mul f.a1 f.y1)) (F32.mul f.a2 f.y2)

/-- The slot after a step with input `x` and output `y` (R104): `x[0]`, `y[0]` set, then both lines shifted. -/
def Biquad.shift (f : Biquad) (x y : F32) : Biquad :=
  { f with x0 := x, x1 := x, x2 := f.x1, y0 := y, y1 := y, y2 := f.y1 }

/-- `BQ_STEP` (R104, R98). -/
def execBqStep (j : Slot) (s : State) : Result :=
  s.withArg 0 fun x =>
    let f := s.bqSlot j
    if f.initialised then (s.setBq j (f.shift (f32 x) (f.output (f32 x)))).finish32 (f.output (f32 x))
    else s.finish .notInit

/-- The unclamped coefficient of R105. -/
def emaAlpha (fc fs : F64) : F32 :=
  let cw := Config.cos (F64.div (F64.mul F64.pi fc) (F64.div fs F64.two))
  F32.ofF64 (F64.add (F64.sub cw F64.one)
    (F64.sqrt (F64.add (F64.sub (F64.mul cw cw) (F64.mul F64.four cw)) F64.three)))

/-- Clamping to [0, 1] (R105): a NaN stays. -/
def clamp01 (a : F32) : F32 :=
  let b := if F32.lt a F32.zero then F32.zero else a
  if F32.lt F32.one b then F32.one else b

/-- `EMA_INIT_FC` (R105). -/
def execEmaInitFc (j : Slot) (s : State) : Result :=
  s.withArg 0 fun fc => s.withArg 1 fun fs =>
    (s.setEma j ⟨true, clamp01 (emaAlpha (f64 fc) (f64 fs)), F32.zero⟩).finish .ok

/-- `EMA_INIT_ALPHA` (R106): no clamp. -/
def execEmaInitAlpha (j : Slot) (s : State) : Result :=
  s.withArg 0 fun a => (s.setEma j ⟨true, f32 a, F32.zero⟩).finish .ok

/-- The output of an EMA step (R107). -/
def Ema.output (f : Ema) (x : F32) : F32 :=
  F32.add (F32.mul f.alpha x) (F32.mul (F32.sub F32.one f.alpha) f.y)

/-- `EMA_STEP` (R107, R98). -/
def execEmaStep (j : Slot) (s : State) : Result :=
  s.withArg 0 fun x =>
    let f := s.emaSlot j
    if f.initialised then (s.setEma j { f with y := f.output (f32 x) }).finish32 (f.output (f32 x))
    else s.finish .notInit

/-- `al` of R108. -/
def notchAlpha (fc ts : F64) : F64 :=
  let w0 := F64.mul twoPi fc
  let w0p := F64.mul (F64.div F64.two ts) (Config.tan (F64.mul (F64.mul F64.half w0) ts))
  F64.add F64.four (F64.mul (F64.mul w0p w0p) (F64.mul ts ts))

/-- `be` of R108. -/
def notchBeta (width ts : F64) : F64 := F64.mul (F64.mul F64.two (F64.mul twoPi width)) ts

/-- `NOTCH_INIT` (R108). -/
def execNotchInit (j : Slot) (s : State) : Result :=
  s.withArg 0 fun fc => s.withArg 1 fun width => s.withArg 2 fun ts =>
    (s.setNotch j ⟨true, F32.ofF64 (notchAlpha (f64 fc) (f64 ts)), F32.ofF64 (notchBeta (f64 width) (f64 ts)),
      F32.zero, F32.zero, F32.zero, F32.zero, F32.zero, F32.zero⟩).finish .ok

/-- The output of a notch step on input `x` (R109). -/
def Notch.output (f : Notch) (x : F32) : F32 :=
  let am8 := F32.sub f.alpha F32.eight
  let num := F32.sub (F32.sub (F32.add (F32.add (F32.mul f.alpha x) (F32.mul (F32.mul F32.two f.x1) am8))
    (F32.mul f.alpha f.x2)) (F32.mul (F32.mul F32.two f.y1) am8)) (F32.mul f.y2 (F32.sub f.alpha f.beta))
  F32.div num (F32.add f.alpha f.beta)

/-- The slot after a step with input `x` and output `y` (R109). -/
def Notch.shift (f : Notch) (x y : F32) : Notch :=
  { f with x0 := x, x1 := x, x2 := f.x1, y0 := y, y1 := y, y2 := f.y1 }

/-- `NOTCH_STEP` (R109, R98). -/
def execNotchStep (j : Slot) (s : State) : Result :=
  s.withArg 0 fun x =>
    let f := s.notchSlot j
    if f.initialised then (s.setNotch j (f.shift (f32 x) (f.output (f32 x)))).finish32 (f.output (f32 x))
    else s.finish .notInit

end Sys2Proof.Machine
end

