-- ==== Sys2Proof/Machine/Goertzel.lean ====
section
/-! DEFINITION. The Goertzel commands, 44_goertzel.md R110–R112. -/

namespace Sys2Proof.Machine

/-- `kr` (R110): the bin before it is rounded down. -/
def goertzelKr (n : Nat) (targetHz sampleHz : F64) : F64 :=
  F64.add F64.half (F64.div (F64.mul (F64.ofInt n) targetHz) sampleHz)

/-- The bin `k` = floor(kr), or `none` where `kr` is NaN, negative or 2^32 and above (R110). -/
def goertzelBin (kr : F64) : Option Nat :=
  if F64.isNan kr || F64.lt kr 0 || !F64.lt kr F64.two32 then none
  else match F64.trunc kr with
    | some v => some v.toNat
    | none => none

/-- The detector right after `GZ_INIT` (R110): everything but `MAG` is set. -/
def Goertzel.init (g : Goertzel) (n : Word) (k : Nat) (adcRes vRange gain vToUnit : F64) : Goertzel :=
  let w := F64.div (F64.mul twoPi (F64.ofInt k)) (F64.ofInt n.toNat)
  { n := n
    cnt := 0
    omega := F32.ofF64 w
    sinw := F32.ofF64 (Config.sin w)
    cosw := F32.ofF64 (Config.cos w)
    coeff := F32.ofF64 (F64.mul F64.two (Config.cos w))
    scalingFactor := F32.ofF64 (F64.div F64.two (F64.ofInt n.toNat))
    inputScaling := F32.ofF64 (F64.div vToUnit (F64.div (F64.mul adcRes gain) vRange))
    q0 := F32.zero
    q1 := F32.zero
    q2 := F32.zero
    mag := g.mag }

/-- `GZ_INIT` (R110). -/
def execGzInit (s : State) : Result :=
  s.withArg 0 fun adcRes => s.withArg 1 fun vRange => s.withArg 2 fun gain => s.withArg 3 fun targetHz =>
  s.withArg 4 fun sampleHz => s.withArg 5 fun n => s.withArg 6 fun vToUnit =>
    if u32 n = 0 then s.finish .arg
    else match goertzelBin (goertzelKr (u32 n) (f64 targetHz) (f64 sampleHz)) with
      | none => s.finish .arg
      | some k =>
        State.finish { s with gz := s.gz.init n k (f64 adcRes) (f64 vRange) (f64 gain) (f64 vToUnit) } .ok

/-- The running values after one sample (R111, first lines). -/
def Goertzel.recur (g : Goertzel) (x : Int) : Goertzel :=
  let q := F32.add (F32.sub (F32.mul g.coeff g.q1) g.q2) (F32.mul (F32.ofInt x) g.inputScaling)
  { g with q0 := q, q2 := g.q1, q1 := q, cnt := g.cnt + 1 }

/-- The magnitude of a finished block (R111). -/
def Goertzel.magnitude (g : Goertzel) : F32 :=
  let re := F32.sub g.q1 (F32.mul g.q2 g.cosw)
  let im := F32.mul g.q2 g.sinw
  F32.mul (F32.sqrt (F32.add (F32.mul re re) (F32.mul im im))) g.scalingFactor

/-- `gzSample(x)` (R111): the detector, and whether a block was finished. -/
def Goertzel.sample (g : Goertzel) (x : Int) : Goertzel × Bool :=
  let r := g.recur x
  if r.cnt = r.n then ({ r with mag := r.magnitude, q0 := F32.zero, q1 := F32.zero, q2 := F32.zero, cnt := 0 }, true)
  else (r, false)

/-- Feeding samples in order (R112): whether any of them finished a block. -/
def Goertzel.feed (g : Goertzel) : List Int → Goertzel × Bool
  | [] => (g, false)
  | x :: xs => (((g.sample x).1.feed xs).1, (g.sample x).2 || ((g.sample x).1.feed xs).2)

/-- `GZ_FEED` (R112). -/
def execGzFeed (h : HalfSel) (c : Chan) (s : State) : Result :=
  s.withArg 0 fun m =>
    if s.gz.n = 0 then s.finish .notInit
    else match s.channelHalf h c with
      | none => s.finish .arg
      | some hf =>
        if s.acqS.toNat < u32 m then s.finish .arg
        else s.withData (s.samples? hf c.toNat 0 (u32 m)) fun xs =>
          let g := s.gz.feed xs
          let t := { s with gz := g.1 }
          if g.2 then ((t.setRes 0 1).setRes 1 g.1.mag).finish .ok else (t.setRes 0 0).finish .ok

end Sys2Proof.Machine
end

