-- ==== Sys2Proof/Machine/Hanning.lean ====
section
/-! DEFINITION. The Hanning window commands, 42_hanning.md R92–R96. -/

namespace Sys2Proof.Machine

/-- `hcoef(i, L)` (R92). -/
def hcoef (i len : Nat) : F32 :=
  F32.ofF64 (F64.mul F64.half (F64.sub F64.one
    (Config.cos (F64.div (F64.mul (F64.mul F64.two F64.pi) (F64.ofInt i)) (F64.ofInt len)))))

/-- `hmul(x, k)` (R93): a draw where the product is NaN or its integer part leaves the element's range. -/
def State.hmul (s : State) (x : Int) (k : F32) : Int × State :=
  match F32.trunc (F32.mul (F32.ofInt x) k) with
  | some v =>
    if -(2 ^ (s.width - 1)) ≤ v ∧ v < 2 ^ (s.width - 1) then (v, s)
    else ((s.drawBits s.width).1.toInt, (s.drawBits s.width).2)
  | none => ((s.drawBits s.width).1.toInt, (s.drawBits s.width).2)

/-- The products of samples and coefficients, in order (R95, R96). -/
def State.hmulAll (s : State) : List Int → List F32 → List Int × State
  | x :: xs, k :: ks => ((s.hmul x k).1 :: ((s.hmul x k).2.hmulAll xs ks).1, ((s.hmul x k).2.hmulAll xs ks).2)
  | _, _ => ([], s)

/-- Multiplying a channel of a half by coefficients, in place (R95, R96). Samples of a channel do not overlap, so that
reading all of them first is reading each before it is written (log 19). -/
def State.windowChannel (s : State) (hf : Half) (c : Nat) (ks : List F32) : Result :=
  s.withData (s.samples? hf c 0 s.acqS.toNat) fun xs =>
    ((s.hmulAll xs ks).2.setSamples hf c 0 (s.hmulAll xs ks).1).finish .ok

/-- `HCOEF[i]`, …, `HCOEF[i + n - 1]`; `none` if a byte is unwritten (R29). -/
def State.coefs? (s : State) (i : Nat) : Nat → Option (List F32)
  | 0 => some []
  | n + 1 =>
    match Memory.readBytes unwritten s.hcoef (4 * i) 4, s.coefs? (i + 1) n with
    | some bs, some ks => some (BitVec.ofNat 32 (leNat bs) :: ks)
    | _, _ => none

/-- The bytes of f32 values, in order (R44). -/
def f32Bytes (ks : List F32) : List Byte := ks.flatMap fun k => leBytes 4 k.toNat

/-- `HANN_INIT` (R94). -/
def execHannInit (s : State) : Result :=
  s.withArg 0 fun len =>
    if u32 len = 0 ∨ s.cfg.hannMax < u32 len then s.finish .arg
    else State.finish
      { s with
        hcoef := Memory.setRange unwritten s.hcoef 0 (f32Bytes ((List.range (u32 len)).map fun i => hcoef i (u32 len)))
        hannLen := len } .ok

/-- `HANN_APPLY` (R95). -/
def execHannApply (h : HalfSel) (c : Chan) (s : State) : Result :=
  if s.hannLen = 0 then s.finish .notInit
  else match s.channelHalf h c with
    | none => s.finish .ok
    | some hf =>
      if s.hannLen.toNat < s.acqS.toNat then s.finish .arg
      else s.withData (s.coefs? 0 s.acqS.toNat) fun ks => s.windowChannel hf c.toNat ks

/-- `HANN_DIRECT` (R96): the window length is S. -/
def execHannDirect (h : HalfSel) (c : Chan) (s : State) : Result :=
  match s.channelHalf h c with
  | none => s.finish .ok
  | some hf =>
    s.windowChannel hf c.toNat ((List.range s.acqS.toNat).map fun i => hcoef i s.acqS.toNat)

end Sys2Proof.Machine
end

