-- ==== Sys2Proof/Machine/Nv.lean ====
section
/-! DEFINITION. The non-volatile sector controller, 48_nv_sector.md R139–R155: the micro-steps, the single-step commands,
and the composites. A micro-step answers the state and whether it succeeded (`true` is `OK`). -/

namespace Sys2Proof.Machine

/-- `NV_WP[k]` = 1. -/
def State.wpBit (s : State) (k : Nat) : Bool := s.nvWp.getLsbD k

/-- `NvErase(k)` (R140). -/
def State.nvEraseStep (s : State) (k : Nat) : State × Bool :=
  if s.lock || s.wpBit k then (s, false)
  else
    let lo := s.cfg.sb k
    let n := s.cfg.sz k
    let d := (s.setTgt (.bytes lo n)).drawBool
    if d.1 then ((d.2.drawBytes n).2.setNv lo (d.2.drawBytes n).1, false)
    else (d.2.setNv lo (List.replicate n 0xFF), true)

/-- `NvProgram(a, n, v)` with `n` the number of bytes of `v` (R140): a byte that is not erased leaves draws and a drawn
outcome. -/
def State.nvProgramStep (s : State) (a : Nat) (v : List Byte) : State × Bool :=
  if s.lock || s.wpBit (s.sectorOf a) then (s, false)
  else
    let t := s.setTgt (.bytes a v.length)
    if (t.nvBytes a v.length).any (fun b => b != 0xFF) then
      let d := t.drawBytes v.length
      (((d.2.setNv a d.1).drawBool).2, ((d.2.setNv a d.1).drawBool).1)
    else
      let d := t.drawBool
      if d.1 then ((d.2.drawBytes v.length).2.setNv a (d.2.drawBytes v.length).1, false)
      else (d.2.setNv a v, true)

/-- `OptWrite(k, bit)` (R140). -/
def State.optWriteStep (s : State) (k : Nat) (bit : Bool) : State × Bool :=
  if s.oblock then (s, false)
  else
    let d := (s.setTgt (.optBit k)).drawBool
    if d.1 then (d.2.drawBool.2.setOptWp (setBit s.nvOptWp k d.2.drawBool.1), false)
    else (d.2.setOptWp (setBit s.nvOptWp k bit), true)

/-- `OptLaunch()` (R140): it has no target. -/
def State.optLaunchStep (s : State) : State × Bool :=
  if s.oblock then (s, false)
  else if s.drawBool.1 then (s.drawBool.2, false)
  else (s.drawBool.2.setWp s.nvOptWp, true)

/-- A single-step command ends with its micro-step's outcome: OK or WRITE_FAIL. -/
def finishStep (r : State × Bool) : Result := r.1.finish (if r.2 then .ok else .writeFail)

/-- `NV_UNLOCK` (R141). -/
def execNvUnlock (s : State) : Result := State.finish { s with lock := false } .ok

/-- `NV_LOCK` (R142). -/
def execNvLock (s : State) : Result := State.finish { s with lock := true } .ok

/-- `NV_OB_UNLOCK` (R143). -/
def execNvObUnlock (s : State) : Result := State.finish { s with oblock := false } .ok

/-- `NV_OB_LOCK` (R144). -/
def execNvObLock (s : State) : Result := State.finish { s with oblock := true } .ok

/-- `NV_WP_SET` (R145). -/
def execNvWpSet (f0 : Bool) (s : State) : Result :=
  s.withArg 0 fun k =>
    if s.cfg.nvSectors ≤ u32 k then s.finish .arg else finishStep (s.optWriteStep (u32 k) f0)

/-- `NV_OB_LAUNCH` (R146). -/
def execNvObLaunch (s : State) : Result := finishStep s.optLaunchStep

/-- `NV_ERASE` (R147). -/
def execNvErase (s : State) : Result :=
  s.withArg 0 fun k =>
    if s.cfg.nvSectors ≤ u32 k then s.finish .arg else finishStep (s.nvEraseStep (u32 k))

/-- `NV_PROG_BYTE` (R148). -/
def execNvProgByte (s : State) : Result :=
  s.withArg 0 fun a => s.withArg 1 fun d =>
    if s.cfg.nvBytes ≤ u32 a then s.finish .arg else finishStep (s.nvProgramStep (u32 a) [u8 d])

/-- `NV_PROG_WORD` (R149). -/
def execNvProgWord (s : State) : Result :=
  s.withArg 0 fun a => s.withArg 1 fun d =>
    if u32 a % 4 ≠ 0 ∨ s.cfg.nvBytes < u32 a + 4 then s.finish .arg
    else finishStep (s.nvProgramStep (u32 a) (leBytes 4 (u32 d)))

/-- `NV_READ_BYTE` (R150). -/
def execNvReadByte (s : State) : Result :=
  s.withArg 0 fun a =>
    if s.cfg.nvBytes ≤ u32 a then s.finish .arg else s.finish32 ((s.nvByte (u32 a)).setWidth 32)

/-- The bytes of the CRC word (R151, R152). -/
def crcLen (f0 : Bool) : Nat := if f0 then 4 else 0

/-- `NV_READ` (R151). -/
def execNvRead (f0 : Bool) (s : State) : Result :=
  s.withArg 0 fun a => s.withArg 1 fun n => s.withArg 2 fun xo =>
    if s.cfg.nvBytes < u32 a + (u32 n + crcLen f0) ∨ s.cfg.xbufBytes < u32 xo + u32 n ∨ (f0 ∧ u32 n % 4 ≠ 0) then
      s.finish .arg
    else
      let t := s.setXbuf (u32 xo) (s.nvBytes (u32 a) (u32 n))
      if f0 then
        let cc := crc32Fn s.cfg (leWords (s.nvBytes (u32 a) (u32 n)))
        let sc : Word := BitVec.ofNat 32 (leNat (s.nvBytes (u32 a + u32 n) 4))
        ((t.setRes 0 cc).setRes 1 sc).finish (if cc = sc then .ok else .crcFail)
      else t.finish .ok

/-- What micro-step 0 of `NV_WRITE` leaves once it has the bytes `P` to program (R152). -/
def State.nvWriteBegin (s : State) (f0 : Bool) (a n xo : Word) (payload : List Byte) : State :=
  { s with lock := false, progress := some ⟨.nvWrite f0 a n xo payload, 1⟩ }

/-- `NV_WRITE`, micro-step 0 (R152); `RC` is written when the composite ends. An address that lies in no sector is
`ARG` (log 14). -/
def execNvWrite (f0 : Bool) (s : State) : Result :=
  s.withArg 0 fun a => s.withArg 1 fun n => s.withArg 2 fun xo =>
    let t := u32 n + crcLen f0
    let k := s.sectorOf (u32 a)
    if s.cfg.xbufBytes < u32 xo + u32 n ∨ (f0 ∧ u32 n % 4 ≠ 0) ∨ s.cfg.nvBytes < u32 a + t then s.finish .arg
    else if s.cfg.nvSectors ≤ k ∨ s.cfg.sb k + s.cfg.sz k < u32 a + t then s.finish .arg
    else s.withData (s.xbufBytes? (u32 xo) (u32 n)) fun p =>
      if f0 then
        let c := crc32Fn s.cfg (leWords p)
        .next ((s.setRes 0 c).nvWriteBegin f0 a n xo (p ++ leBytes 4 c.toNat))
      else .next (s.nvWriteBegin f0 a n xo p)

/-- `OTP_READ` (R153): the stored option decides. -/
def execOtpRead (s : State) : Result :=
  .next (if s.nvOptWp.getLsbD s.cfg.otpSector then
    { s.setXbuf 0 (s.nvBytes (s.cfg.sb s.cfg.otpSector) Params.otpRecBytes) with rc := .ok }
  else { s with rc := .empty })

/-- `OTP_WRITE`, micro-step 0 (R154): the record is read before its version is checked (R162). -/
def execOtpWrite (s : State) : Result :=
  s.withData (s.xbufBytes? 0 Params.otpRecBytes) fun r =>
    let version := (r.headD 0).toNat
    if version = 0 ∨ Params.otpCurrent < version then s.finish .writeFail
    else .next { s with lock := false, oblock := false, progress := some ⟨.otpWrite r, 1⟩ }

/-- The composite is over (R152, R154): its result code is written. -/
def State.endComposite (s : State) (code : ResultCode) : Result :=
  State.finish { s with progress := none } code

/-- After a micro-step of a composite: on to the next one, or the end with WRITE_FAIL in the state `onFail` makes. -/
def Progress.continueComposite (p : Progress) (r : State × Bool) (onFail : State → State) : Result :=
  if r.2 then .next { r.1 with progress := some { p with index := p.index + 1 } }
  else (onFail r.1).endComposite .writeFail

/-- A failed `NV_WRITE` locks again (R152). -/
def State.relock (s : State) : State := { s with lock := true }

/-- Micro-steps 1, 2, … of `NV_WRITE` (R152): erase, program each byte, lock. -/
def State.nvWriteStep (s : State) (p : Progress) (a : Nat) (payload : List Byte) : Result :=
  if p.index ≤ 1 then p.continueComposite (s.nvEraseStep (s.sectorOf a)) State.relock
  else match payload[p.index - 2]? with
    | some b => p.continueComposite (s.nvProgramStep (a + (p.index - 2)) [b]) State.relock
    | none => s.relock.endComposite .ok

/-- Micro-steps 1, 2, … of `OTP_WRITE` (R154); a failure leaves the locks as they are. -/
def State.otpWriteStep (s : State) (p : Progress) (record : List Byte) : Result :=
  let k := s.cfg.otpSector
  if p.index ≤ 1 then p.continueComposite (s.optWriteStep k false) id
  else if p.index = 2 then p.continueComposite s.optLaunchStep id
  else if p.index = 3 then p.continueComposite (s.nvEraseStep k) id
  else if p.index ≤ 11 then
    let w := p.index - 4
    p.continueComposite (s.nvProgramStep (s.cfg.sb k + 4 * w) ((record.drop (4 * w)).take 4)) id
  else if p.index = 12 then p.continueComposite (s.optWriteStep k true) id
  else if p.index = 13 then p.continueComposite s.optLaunchStep id
  else State.endComposite { s with lock := true, oblock := true } .ok

/-- CMDU's next micro-step of the composite in progress (R140). -/
def State.microStep (s : State) (p : Progress) : Result :=
  match p.command with
  | .nvWrite _ a _ _ payload => s.nvWriteStep p (u32 a) payload
  | .otpWrite record => s.otpWriteStep p record

end Sys2Proof.Machine
end

