-- ==== Sys2Proof/Machine/Dispatch.lean ====
section
/-! DEFINITION. `exec`: one arm per command, each one direct call of its meaning. -/

namespace Sys2Proof.Machine

def exec (i : Instr) (s : State) : Host.Outcome State Fault Refusal :=
  match i with
  | .acqInit => Sys2Proof.Machine.execAcqInit s
  | .acqLoop => Sys2Proof.Machine.execAcqLoop s
  | .acqMean h c => Sys2Proof.Machine.execAcqMean h c s
  | .acqMeanLim h c => Sys2Proof.Machine.execAcqMeanLim h c s
  | .acqMeanShift h c => Sys2Proof.Machine.execAcqMeanShift h c s
  | .acqAbsMean h c => Sys2Proof.Machine.execAcqAbsMean h c s
  | .acqRms h c => Sys2Proof.Machine.execAcqRms h c s
  | .acqTrueRms h c => Sys2Proof.Machine.execAcqTrueRms h c s
  | .acqMax h c => Sys2Proof.Machine.execAcqMax h c s
  | .acqMin h c => Sys2Proof.Machine.execAcqMin h c s
  | .acqSetOffset h c => Sys2Proof.Machine.execAcqSetOffset h c s
  | .acqCma h c => Sys2Proof.Machine.execAcqCma h c s
  | .acqPeakFwd h c => Sys2Proof.Machine.execAcqPeakFwd h c s
  | .acqPeakRev h c => Sys2Proof.Machine.execAcqPeakRev h c s
  | .acqSineWin h c => Sys2Proof.Machine.execAcqSineWin h c s
  | .hannInit => Sys2Proof.Machine.execHannInit s
  | .hannApply h c => Sys2Proof.Machine.execHannApply h c s
  | .hannDirect h c => Sys2Proof.Machine.execHannDirect h c s
  | .bqInitBp j => Sys2Proof.Machine.execBqInitBp j s
  | .bqInitBs j => Sys2Proof.Machine.execBqInitBs j s
  | .bqInitLp j => Sys2Proof.Machine.execBqInitLp j s
  | .bqLoad j => Sys2Proof.Machine.execBqLoad j s
  | .bqStep j => Sys2Proof.Machine.execBqStep j s
  | .emaInitFc j => Sys2Proof.Machine.execEmaInitFc j s
  | .emaInitAlpha j => Sys2Proof.Machine.execEmaInitAlpha j s
  | .emaStep j => Sys2Proof.Machine.execEmaStep j s
  | .notchInit j => Sys2Proof.Machine.execNotchInit j s
  | .notchStep j => Sys2Proof.Machine.execNotchStep j s
  | .cbInit j => Sys2Proof.Machine.execCbInit j s
  | .cbPush j => Sys2Proof.Machine.execCbPush j s
  | .cbGet j => Sys2Proof.Machine.execCbGet j s
  | .cbMean j => Sys2Proof.Machine.execCbMean j s
  | .cbMax j => Sys2Proof.Machine.execCbMax j s
  | .arrMax j => Sys2Proof.Machine.execArrMax j s
  | .arrMin j => Sys2Proof.Machine.execArrMin j s
  | .arrSum j => Sys2Proof.Machine.execArrSum j s
  | .arrMean j => Sys2Proof.Machine.execArrMean j s
  | .maInit j => Sys2Proof.Machine.execMaInit j s
  | .maMean j => Sys2Proof.Machine.execMaMean j s
  | .maVar j => Sys2Proof.Machine.execMaVar j s
  | .maStd j => Sys2Proof.Machine.execMaStd j s
  | .gzInit => Sys2Proof.Machine.execGzInit s
  | .gzFeed h c => Sys2Proof.Machine.execGzFeed h c s
  | .fftInit => Sys2Proof.Machine.execFftInit s
  | .fftRun h c => Sys2Proof.Machine.execFftRun h c s
  | .fftAbsMax f0 => Sys2Proof.Machine.execFftAbsMax f0 s
  | .crc4 => Sys2Proof.Machine.execCrc4 s
  | .crc8 => Sys2Proof.Machine.execCrc8 s
  | .crc32 => Sys2Proof.Machine.execCrc32 s
  | .nvUnlock => Sys2Proof.Machine.execNvUnlock s
  | .nvLock => Sys2Proof.Machine.execNvLock s
  | .nvObUnlock => Sys2Proof.Machine.execNvObUnlock s
  | .nvObLock => Sys2Proof.Machine.execNvObLock s
  | .nvWpSet f0 => Sys2Proof.Machine.execNvWpSet f0 s
  | .nvObLaunch => Sys2Proof.Machine.execNvObLaunch s
  | .nvErase => Sys2Proof.Machine.execNvErase s
  | .nvProgByte => Sys2Proof.Machine.execNvProgByte s
  | .nvProgWord => Sys2Proof.Machine.execNvProgWord s
  | .nvReadByte => Sys2Proof.Machine.execNvReadByte s
  | .nvRead f0 => Sys2Proof.Machine.execNvRead f0 s
  | .nvWrite f0 => Sys2Proof.Machine.execNvWrite f0 s
  | .otpRead => Sys2Proof.Machine.execOtpRead s
  | .otpWrite => Sys2Proof.Machine.execOtpWrite s

end Sys2Proof.Machine
end

