-- ==== Sys2Proof/Machine/HostAccess.lean ====
section
/-! DEFINITION. HOST accesses: the register map (R20), the windows (R43), widths and alignment (R46, R48), reads and
writes (R26, R47), and the command a `CMD` write starts (R21, R49, R68). -/

namespace Sys2Proof.Machine

/-- The registers of R20. -/
inductive Reg where
  | cmd
  | rc
  | acqC
  | acqS
  | acqCfg
  | acqState
  | acqWptr
  | arg (n : Fin 8)
  | res (n : Fin 4)
  | crc4Poly
  | crc4Init
  | crc8Poly
  | crc8Init
  | nvState
  | nvWp
  | nvOptWp
  | fftLen
  | hannLen
  | gzN
  | gzCnt
  deriving DecidableEq, Repr

/-- The register at an offset (R20). -/
def registerAt (off : Nat) : Option Reg :=
  match off with
  | 0x000 => some .cmd
  | 0x004 => some .rc
  | 0x008 => some .acqC
  | 0x00C => some .acqS
  | 0x010 => some .acqCfg
  | 0x014 => some .acqState
  | 0x018 => some .acqWptr
  | 0x020 => some (.arg 0)
  | 0x024 => some (.arg 1)
  | 0x028 => some (.arg 2)
  | 0x02C => some (.arg 3)
  | 0x030 => some (.arg 4)
  | 0x034 => some (.arg 5)
  | 0x038 => some (.arg 6)
  | 0x03C => some (.arg 7)
  | 0x040 => some (.res 0)
  | 0x044 => some (.res 1)
  | 0x048 => some (.res 2)
  | 0x04C => some (.res 3)
  | 0x050 => some .crc4Poly
  | 0x054 => some .crc4Init
  | 0x058 => some .crc8Poly
  | 0x05C => some .crc8Init
  | 0x060 => some .nvState
  | 0x064 => some .nvWp
  | 0x068 => some .nvOptWp
  | 0x06C => some .fftLen
  | 0x070 => some .hannLen
  | 0x074 => some .gzN
  | 0x078 => some .gzCnt
  | _ => none

/-- The windows of R43. -/
inductive Window where
  | ring
  | xbuf
  | fftTab
  | hannTab
  deriving DecidableEq, Repr

/-- The window an offset lies in, and the offset inside it (R43). -/
def windowAt (off : Nat) : Option (Window × Nat) :=
  if off < 0x100000 then none
  else if off < 0x200000 then some (.ring, off - 0x100000)
  else if off < 0x210000 then some (.xbuf, off - 0x200000)
  else if off < 0x220000 then some (.fftTab, off - 0x210000)
  else if off < 0x230000 then some (.hannTab, off - 0x220000)
  else none

/-- The extent of a window now (R43). -/
def State.extent (s : State) : Window → Nat
  | .ring => s.cfg.ringBytes
  | .xbuf => s.cfg.xbufBytes
  | .fftTab => 4 * s.fftLen.toNat
  | .hannTab => 4 * s.hannLen.toNat

/-- The bytes behind a window. -/
def State.windowMem (s : State) : Window → Memory
  | .ring => s.ring
  | .xbuf => s.xbuf
  | .fftTab => s.tab
  | .hannTab => s.hcoef

/-- The bytes of an access (R46). -/
def Width.bytes : Width → Nat
  | .w1 => 1
  | .w2 => 2
  | .w4 => 4

/-- What an access is made to. -/
inductive Place where
  | reg (r : Reg)
  | win (w : Window) (off : Nat)
  deriving DecidableEq, Repr

/-- Where an access goes, or its fault (R43, R46, R47, R48). The order of the checks is DESIGN CHOICE, log 13. -/
def State.locate (s : State) (off : Int) (width : Width) : Except Fault Place :=
  if off < 0 then .error (.unmapped (.host off))
  else if off < 0x100 then
    match registerAt (off.toNat / 4 * 4) with
    | none => .error (.unmapped (.host off))
    | some r =>
      if width ≠ .w4 then .error (.badWidth (.host off))
      else if off.toNat % 4 ≠ 0 then .error (.misaligned (.host off))
      else .ok (.reg r)
  else
    match windowAt off.toNat with
    | none => .error (.unmapped (.host off))
    | some (w, rel) =>
      if s.extent w < rel + width.bytes then .error (.unmapped (.host off))
      else if rel % width.bytes ≠ 0 then .error (.misaligned (.host off))
      else .ok (.win w rel)

/-- The bits of `ACTIVE` and `LAST` (R22). -/
def ActiveBuffer.bits : ActiveBuffer → Word
  | .notAvailable => 0
  | .first => 1
  | .second => 2

/-- A bit as a word. -/
def bitWord (b : Bool) : Word := if b then 1 else 0

/-- The value of a register (R20, R26); `none` is a `RES` register whose mark is clear (R17). An unwritten `ARG` reads
as the value it holds (log 12). -/
def State.readReg (s : State) : Reg → Option Word
  | .cmd => some s.cmd
  | .rc => some s.rc.code
  | .acqC => some s.acqC
  | .acqS => some s.acqS
  | .acqCfg => some (bitWord s.w32 ||| bitWord s.armed <<< 1)
  | .acqState => some (s.active.bits ||| s.last.bits <<< 2)
  | .acqWptr => some s.wptr
  | .arg n => some s.args[n].value
  | .res n => if s.res[n].written then some s.res[n].value else none
  | .crc4Poly => some (s.crc4Poly.setWidth 32)
  | .crc4Init => some (s.crc4Init.setWidth 32)
  | .crc8Poly => some (s.crc8Poly.setWidth 32)
  | .crc8Init => some (s.crc8Init.setWidth 32)
  | .nvState => some (bitWord s.lock ||| bitWord s.oblock <<< 1)
  | .nvWp => some s.nvWp
  | .nvOptWp => some s.nvOptWp
  | .fftLen => some s.fftLen
  | .hannLen => some s.hannLen
  | .gzN => some s.gz.n
  | .gzCnt => some s.gz.cnt

/-- The value HOST reads at a place, or the fault of an unwritten byte (R27, R47) or `RES` register. R17 states the latter:
"A HOST read of a `RES` register whose mark is clear raises `Fault(UnwrittenRes)`"; so do R161 and R174. A read of 1 or 2 bytes is held as a word with zeros above them
(log 30). -/
def State.readPlace (s : State) (off : Int) (width : Width) : Place → Except Fault Word
  | .reg r =>
    match s.readReg r with
    | some v => .ok v
    | none => .error (.unwrittenRes (.host off))
  | .win w rel =>
    match Memory.readBytes unwritten (s.windowMem w) rel width.bytes with
    | some bs => .ok (BitVec.ofNat 32 (leNat bs))
    | none => .error (.unwrittenData (.host off))

/-- A HOST read (R26, R47): it changes nothing (R49). R161 gives no order where a fault of `State.locate` and an unwritten
`RES` register or byte apply to one read; the fault of `State.locate` is reported. DESIGN CHOICE, log 13. -/
def State.hostRead (s : State) (off : Int) (width : Width) : Except Fault Word :=
  match s.locate off width with
  | .error f => .error f
  | .ok p => s.readPlace off width p

/-- A write of a word to `CMD` (R21, R68): the read-back is set, the command is executed in the same step. -/
def State.command (s : State) (v : Word) : Result :=
  match decode s.cfg v with
  | none => State.finish { s with cmd := v } .illegal
  | some i => exec i { s with cmd := v }

/-- A HOST write to a register (R26): only the defined bits are kept, a write to a read-only register is ignored. -/
def State.writeReg (s : State) (r : Reg) (v : Word) : Result :=
  match r with
  | .cmd => s.command v
  | .arg n => .next { s with args := s.args.set n ⟨v, true⟩ }
  | .crc4Poly => .next { s with crc4Poly := v.setWidth 4 }
  | .crc4Init => .next { s with crc4Init := v.setWidth 4 }
  | .crc8Poly => .next { s with crc8Poly := v.setWidth 8 }
  | .crc8Init => .next { s with crc8Init := v.setWidth 8 }
  | .rc | .acqC | .acqS | .acqCfg | .acqState | .acqWptr | .res _ | .nvState | .nvWp | .nvOptWp | .fftLen
  | .hannLen | .gzN | .gzCnt => .next s

/-- A HOST write to a window (R47): FFT_TAB and HANN_TAB ignore it. -/
def State.writeWindow (s : State) (w : Window) (rel : Nat) (bs : List Byte) : State :=
  match w with
  | .ring => { s with ring := Memory.setRange unwritten s.ring rel bs }
  | .xbuf => s.setXbuf rel bs
  | .fftTab => s
  | .hannTab => s

/-- A HOST write (R26, R47). A window access of 1 or 2 bytes stores the low bytes of `v`, which the spec does not say of a
value that needs more. DESIGN CHOICE, log 30. -/
def State.hostWrite (s : State) (off : Int) (width : Width) (v : Word) : Result :=
  match s.locate off width with
  | .error f => .fault f
  | .ok (.reg r) => s.writeReg r v
  | .ok (.win w rel) => .next (s.writeWindow w rel (leBytes width.bytes v.toNat))

/-- The value a program line writes. -/
def State.hostValue (s : State) : HostValue → Word
  | .lit v => v
  | .lastRead => s.hostData

/-- The line after a read of `v` (R70): back to a line unless the value is the one waited for. -/
def nextLine (pos : Nat) (again : Option (Word × Nat)) (v : Word) : Nat :=
  match again with
  | none => pos + 1
  | some (stop, target) => if v = stop then pos + 1 else target

/-- One line of the HOST program: one access (R16, R46). The block's base is at platform address `BLOCK_BASE` (R43). -/
def State.hostStep (s : State) (line : HostLine) : Result :=
  match line with
  | .write addr width value =>
    { s with hostPos := s.hostPos + 1 }.hostWrite ((addr : Int) - s.cfg.blockBase) width (s.hostValue value)
  | .read addr width again =>
    match s.hostRead ((addr : Int) - s.cfg.blockBase) width with
    | .error f => .fault f
    | .ok v => .next { s with hostData := v, hostPos := nextLine s.hostPos again v }

end Sys2Proof.Machine
end

