-- ==== Sys2Proof/Machine/Turns.lean ====
section
/-! DEFINITION. Which agent moves (R16) and what its step is (R15, R16, R140, R158). -/

namespace Sys2Proof.Machine

/-- The agent a free choice names. -/
def turnOf (n : Nat) : Turn :=
  match n % 5 with
  | 0 => .host
  | 1 => .cmdu
  | 2 => .produce
  | 3 => .complete
  | _ => .powerLoss

/-- The next turn: of the schedule, or a free choice when the schedule is used up (R16). Log 5. -/
def State.takeTurn (s : State) : Turn × State :=
  match s.schedule with
  | t :: rest => (t, { s with schedule := rest })
  | [] => (turnOf (Config.freeTurn s.turnCount), { s with turnCount := s.turnCount + 1 })

/-- HOST's next line. -/
def State.hostLine? (s : State) : Option HostLine := s.hostProgram[s.hostPos]?

/-- Whether a composite in progress, if there is one, lets PROD step: R185 says that it does, R15 that it does not, and the
parameter decides. DESIGN CHOICE, log 8. -/
def State.prodFree (s : State) : Bool := s.progress.isNone || s.cfg.prodInComposites

/-- Which agent's step is enabled (R16, R71, R72, R173). A composite in progress keeps HOST from stepping (R39). -/
def State.enabled (s : State) : Turn → Bool
  | .host => s.progress.isNone && s.hostLine?.isSome
  | .cmdu => s.progress.isSome
  | .produce => s.prodFree && s.armed
  | .complete => s.prodFree && !s.fifo.isEmpty
  | .powerLoss => true

/-- HOST has taken its last step and CMDU has finished the last command (R176). -/
def State.finished (s : State) : Bool := s.hostLine?.isNone && s.progress.isNone

/-- Every HOST, CMDU or PROD step first clears `TGT` (R38, R158). -/
def State.clearTgt (s : State) : State := { s with tgt := .none }

/-- The step of an enabled agent. -/
def State.agentStep (s : State) : Turn → Result
  | .host =>
    match s.hostLine? with
    | some line => s.clearTgt.hostStep line
    | none => .next s
  | .cmdu =>
    match s.progress with
    | some p => s.clearTgt.microStep p
    | none => .next s
  | .produce => .next s.clearTgt.produceStep
  | .complete => .next s.clearTgt.completeStep
  | .powerLoss => .next s.powerLossStep

/-- An agent that is not enabled lets its turn pass (log 5). -/
def State.runTurn (s : State) (t : Turn) : Result := if s.enabled t then s.agentStep t else .next s

end Sys2Proof.Machine
end

