-- ==== Sys2Proof/Machine/Step.lean ====
section
/-! DEFINITION. One step of the block (R15, R16, R51), and placing a command where the next step fetches it. -/

namespace Sys2Proof.Machine

/-- One step: the agent whose turn it is takes its step. -/
def step (s : State) : Host.Outcome State Fault Refusal := s.takeTurn.2.runTurn s.takeTurn.1

/-- `s` with a command as the word HOST writes to `CMD` in the very next step (log 7): the turn is HOST's, its current
line is that write, and no composite keeps HOST from stepping (R39). -/
def State.withFetchWord (s : State) (nbits w : Nat) : State :=
  { s with
    progress := none
    schedule := .host :: s.schedule
    hostProgram := s.hostProgram.take s.hostPos
      ++ (.write s.cfg.blockBase .w4 (.lit (BitVec.ofNat 32 (w % 2 ^ nbits))) :: s.hostProgram.drop s.hostPos)
    hostPos := min s.hostPos s.hostProgram.length }

end Sys2Proof.Machine
end

