-- ==== Sys2Proof/Machine/HostProgram.lean ====
section
/-! DEFINITION. The written form of HOST programs (R69) and the pseudo-instructions (R70), as program lines. -/

namespace Sys2Proof.Machine

/-- The platform address of an offset (R43). -/
def hostAddr (cfg : Params) (off : Nat) : Nat := cfg.blockBase + off

/-- `set <register>, <value>` (R69). -/
def asmSet (cfg : Params) (off : Nat) (v : Word) : HostLine := .write (hostAddr cfg off) .w4 (.lit v)

/-- `set <register>, <the value read>` (95_test_vectors.md P2). -/
def asmSetRead (cfg : Params) (off : Nat) : HostLine := .write (hostAddr cfg off) .w4 .lastRead

/-- `get <register>` (R69). -/
def asmGet (cfg : Params) (off : Nat) : HostLine := .read (hostAddr cfg off) .w4 none

/-- The offset of `ARGn` (R20). -/
def argOffset (n : Nat) : Nat := 0x020 + 4 * n

/-- The offset of `RESn` (R20). -/
def resOffset (n : Nat) : Nat := 0x040 + 4 * n

/-- A command line: the command's word written to `CMD` (R69). -/
def asmCmd (cfg : Params) (i : Instr) : HostLine := asmSet cfg 0x000 (encode i)

/-- `wr <window>+<offset>.<n>, <value>` (R69), with the window's first offset (R43). -/
def asmWr (cfg : Params) (window off : Nat) (width : Width) (v : Word) : HostLine :=
  .write (hostAddr cfg (window + off)) width (.lit v)

/-- `rd <window>+<offset>.<n>` (R69). -/
def asmRd (cfg : Params) (window off : Nat) (width : Width) : HostLine :=
  .read (hostAddr cfg (window + off)) width none

/-- `f:<decimal>` (R69): the binary32 nearest to ± m / 10^k. -/
def f32Decimal (neg : Bool) (m k : Nat) : F32 :=
  let d : Nat := 10 ^ k
  let sh : Nat := 27 + d.log2
  let num := m * 2 ^ sh
  let sticky := if num % d = 0 then 0 else 1
  BitVec.ofNat 32 (binary32.round neg (2 * (num / d) + sticky) (-(sh : Int) - 1))

/-- `lf ARGn, <decimal>` (R70). -/
def asmLf (cfg : Params) (n : Nat) (neg : Bool) (m k : Nat) : HostLine :=
  asmSet cfg (argOffset n) (f32Decimal neg m k)

/-- `poll` (R70). -/
def asmPoll (cfg : Params) : List HostLine := [asmCmd cfg .acqLoop, asmGet cfg (resOffset 0)]

/-- `waithalf` (R70), its first line being line `pos` of the program. -/
def asmWaitHalf (cfg : Params) (pos : Nat) : List HostLine :=
  [asmCmd cfg .acqLoop, .read (hostAddr cfg (resOffset 0)) .w4 (some (1, pos))]

/-- `nvw <addr>, <len>, <xoff>[, crc]` (R70). -/
def asmNvw (cfg : Params) (addr len xoff : Word) (crc : Bool) : List HostLine :=
  [asmSet cfg (argOffset 0) addr, asmSet cfg (argOffset 1) len, asmSet cfg (argOffset 2) xoff, asmCmd cfg (.nvWrite crc)]

/-- `nvr <addr>, <len>, <xoff>[, crc]` (R70). -/
def asmNvr (cfg : Params) (addr len xoff : Word) (crc : Bool) : List HostLine :=
  [asmSet cfg (argOffset 0) addr, asmSet cfg (argOffset 1) len, asmSet cfg (argOffset 2) xoff, asmCmd cfg (.nvRead crc)]

/-- `chk` (R70). -/
def asmChk (cfg : Params) : HostLine := asmGet cfg 0x004

end Sys2Proof.Machine
end

