-- ==== Sys2Proof/Machine/Records.lean ====
section
/-! DEFINITION. The record layouts kept in NV: the OTP board-identity record (R156) and the uptime record (R157). The
block itself interprets only the version byte (R154); these say where the fields lie. -/

namespace Sys2Proof.Machine

/-- The board-identity record, by version (R156). -/
inductive BoardInfo where
  | v1 (boardType pcbMajor pcbMinor : Byte) (productionDate : Word)
  | v2 (boardType subBoardType : Byte) (reserved : List Byte) (pcbMajor pcbMinor : Byte) (productionDate : Word)
  deriving DecidableEq, Repr

/-- The little-endian u32 at an offset of a record (R44, R156). -/
def recordU32 (r : List Byte) (off : Nat) : Word := BitVec.ofNat 32 (leNat ((r.drop off).take 4))

/-- The byte at an offset of a record. -/
def recordByte (r : List Byte) (off : Nat) : Byte := r.getD off 0

/-- D2 = 4·⌈(5+R)/4⌉, where the version 2 date lies (R156). -/
def otpDateOffset (rsv : Nat) : Nat := 4 * ((5 + rsv + 3) / 4)

/-- The fields of a record (R156); `none` if its version byte is not 1 or 2. -/
def BoardInfo.parse (cfg : Params) (r : List Byte) : Option BoardInfo :=
  let rsv := cfg.otpV2Rsv
  if recordByte r 0 = 1 then
    some (.v1 (recordByte r 1) (recordByte r 2) (recordByte r 3) (recordU32 r 4))
  else if recordByte r 0 = 2 then
    some (.v2 (recordByte r 1) (recordByte r 2) ((r.drop 3).take rsv) (recordByte r (3 + rsv)) (recordByte r (4 + rsv))
      (recordU32 r (otpDateOffset rsv)))
  else none

/-- The record of a board, laid over the bytes `pad` that HOST wrote (R156). -/
def BoardInfo.record (cfg : Params) (pad : List Byte) : BoardInfo → List Byte
  | .v1 t major minor date => [1, t, major, minor] ++ leBytes 4 date.toNat ++ pad.drop 8
  | .v2 t sub reserved major minor date =>
    let rsv := cfg.otpV2Rsv
    let d2 := otpDateOffset rsv
    [2, t, sub] ++ reserved ++ [major, minor] ++ (pad.drop (5 + rsv)).take (d2 - (5 + rsv)) ++ leBytes 4 date.toNat
      ++ pad.drop (d2 + 4)

/-- One uptime channel (R157). -/
structure UptimeChannel where
  id : Word
  resetCount : Word
  count : Word
  deriving DecidableEq, Repr

/-- The uptime record (R157): a software version of at most 16 bytes and at most `UPTIME_MAX_CH` channels. -/
structure UptimeRecord where
  swVersion : List Byte
  channels : List UptimeChannel
  deriving DecidableEq, Repr

/-- The bounds of R157. -/
def UptimeRecord.legal (r : UptimeRecord) : Bool :=
  decide (r.swVersion.length ≤ 16 ∧ r.channels.length ≤ Params.uptimeMaxCh)

/-- The 12 bytes of a channel (R157). -/
def UptimeChannel.bytes (c : UptimeChannel) : List Byte :=
  leBytes 4 c.id.toNat ++ leBytes 4 c.resetCount.toNat ++ leBytes 4 c.count.toNat

/-- The payload: the zero-padded version string, then the channels (R157). -/
def UptimeRecord.payload (r : UptimeRecord) : List Byte :=
  r.swVersion ++ List.replicate (16 - r.swVersion.length) 0 ++ r.channels.flatMap UptimeChannel.bytes

/-- The bytes kept in NV: the payload and its CRC word (R157). -/
def UptimeRecord.stored (cfg : Params) (r : UptimeRecord) : List Byte :=
  r.payload ++ leBytes 4 (crc32Fn cfg (leWords r.payload)).toNat

/-- A channel at an offset of a payload (R157). -/
def uptimeChannelAt (p : List Byte) (j : Nat) : UptimeChannel :=
  ⟨recordU32 p (16 + 12 * j), recordU32 p (20 + 12 * j), recordU32 p (24 + 12 * j)⟩

/-- The `n` channels of a payload (R157). -/
def uptimeChannels (p : List Byte) (n : Nat) : List UptimeChannel := (List.range n).map (uptimeChannelAt p)

/-- Writing an uptime record of `n` channels that stands in XBUF at `xoff` (R157): `NV_WRITE` with CRC at the base of
`UPTIME_SECTOR`. -/
def asmUptimeWrite (cfg : Params) (n : Nat) (xoff : Word) : List HostLine :=
  asmNvw cfg (BitVec.ofNat 32 (cfg.sb cfg.uptimeSector)) (BitVec.ofNat 32 (16 + 12 * n)) xoff true

/-- Reading it back with verification (R175). -/
def asmUptimeRead (cfg : Params) (n : Nat) (xoff : Word) : List HostLine :=
  asmNvr cfg (BitVec.ofNat 32 (cfg.sb cfg.uptimeSector)) (BitVec.ofNat 32 (16 + 12 * n)) xoff true

end Sys2Proof.Machine
end

