-- ==== Sys2Proof/Machine/Runs.lean ====
section
/-! DEFINITION. Runs and their end (R161, R176). -/

namespace Sys2Proof.Machine

/-- How a run stands after some of its steps. -/
inductive RunStatus where
  /-- The run is at this state and goes on. -/
  | going (s : State)
  /-- The run has ended at this state: HOST and CMDU are finished (R176). -/
  | ended (s : State)
  /-- The run has ended at a model fault; the state is the one before the step that raised it (R161, R176). -/
  | faulted (f : Fault) (s : State)
  /-- A step was refused in this state. No step of this model is. -/
  | refused (r : Refusal) (s : State)
  deriving DecidableEq, Repr

/-- A step of PROD is scheduled next. -/
def State.prodScheduled (s : State) : Bool :=
  match s.schedule with
  | .produce :: _ | .complete :: _ => true
  | _ => false

/-- The run is over (R176): HOST and CMDU are finished, and the schedule has no PROD step to take first. PROD stays
enabled after HOST's last step, so a schedule may name PROD steps that still belong to the run. Log 3. -/
def State.over (s : State) : Bool := s.finished && !s.prodScheduled

/-- The run from `s` after at most `n` steps: it takes no step once it is over, and none after a fault. -/
def State.run (s : State) : Nat → RunStatus
  | 0 => if s.over then .ended s else .going s
  | n + 1 =>
    if s.over then .ended s
    else match step s with
      | .next t => t.run n
      | .fault f => .faulted f s
      | .refused r => .refused r s

end Sys2Proof.Machine
end

