-- ==== Sys2Proof/Safety.lean ====
section
/-! DEFINITION. What a safe run is, in the terms the statements use: runs, their end and fairness (R15, R16, R161, R176),
and the invariants of the memories, the arbiter (R22, R28, R71, R72), the NV protection (R20, R24), the units (R33–R36) and
the composites (R39, R185). -/

namespace Sys2Proof

/-- The `ARG` registers a command reads (R67, column "ARG read"). -/
def Instr.argsRead : Instr → List (Fin 8)
  | .acqInit => [0, 1, 2]
  | .acqLoop => []
  | .acqMean _ _ => []
  | .acqMeanLim _ _ => [0, 1]
  | .acqMeanShift _ _ => [0]
  | .acqAbsMean _ _ => []
  | .acqRms _ _ => []
  | .acqTrueRms _ _ => [0, 1]
  | .acqMax _ _ => []
  | .acqMin _ _ => []
  | .acqSetOffset _ _ => [0]
  | .acqCma _ _ => [0, 1]
  | .acqPeakFwd _ _ => []
  | .acqPeakRev _ _ => []
  | .acqSineWin _ _ => []
  | .hannInit => [0]
  | .hannApply _ _ => []
  | .hannDirect _ _ => []
  | .bqInitBp _ => [0, 1, 2]
  | .bqInitBs _ => [0, 1, 2]
  | .bqInitLp _ => [0, 1, 2]
  | .bqLoad _ => [0, 1, 2, 3, 4]
  | .bqStep _ => [0]
  | .emaInitFc _ => [0, 1]
  | .emaInitAlpha _ => [0]
  | .emaStep _ => [0]
  | .notchInit _ => [0, 1, 2]
  | .notchStep _ => [0]
  | .cbInit _ => [0]
  | .cbPush _ => [0]
  | .cbGet _ => [0]
  | .cbMean _ => [0]
  | .cbMax _ => [0]
  | .arrMax _ => [0]
  | .arrMin _ => [0]
  | .arrSum _ => [0]
  | .arrMean _ => [0]
  | .maInit _ => [0]
  | .maMean _ => [0]
  | .maVar _ => [0]
  | .maStd _ => [0]
  | .gzInit => [0, 1, 2, 3, 4, 5, 6]
  | .gzFeed _ _ => [0]
  | .fftInit => [0]
  | .fftRun _ _ => []
  | .fftAbsMax _ => [0]
  | .crc4 => [0, 1]
  | .crc8 => [0, 1]
  | .crc32 => [0, 1]
  | .nvUnlock => []
  | .nvLock => []
  | .nvObUnlock => []
  | .nvObLock => []
  | .nvWpSet _ => [0]
  | .nvObLaunch => []
  | .nvErase => [0]
  | .nvProgByte => [0, 1]
  | .nvProgWord => [0, 1]
  | .nvReadByte => [0]
  | .nvRead _ => [0, 1, 2]
  | .nvWrite _ => [0, 1, 2]
  | .otpRead => []
  | .otpWrite => []

/-- The `RES` registers a command may write (R67, column "RES written"). -/
def Instr.resWritten : Instr → List (Fin 4)
  | .acqInit => []
  | .acqLoop => [0, 1, 2, 3]
  | .acqMean _ _ => [0, 1]
  | .acqMeanLim _ _ => [0, 1]
  | .acqMeanShift _ _ => [0, 1]
  | .acqAbsMean _ _ => [0, 1]
  | .acqRms _ _ => [0, 1]
  | .acqTrueRms _ _ => [0, 1]
  | .acqMax _ _ => [0]
  | .acqMin _ _ => [0]
  | .acqSetOffset _ _ => []
  | .acqCma _ _ => [0]
  | .acqPeakFwd _ _ => [0]
  | .acqPeakRev _ _ => [0]
  | .acqSineWin _ _ => [0, 1]
  | .hannInit => []
  | .hannApply _ _ => []
  | .hannDirect _ _ => []
  | .bqInitBp _ => []
  | .bqInitBs _ => []
  | .bqInitLp _ => []
  | .bqLoad _ => []
  | .bqStep _ => [0]
  | .emaInitFc _ => []
  | .emaInitAlpha _ => []
  | .emaStep _ => [0]
  | .notchInit _ => []
  | .notchStep _ => [0]
  | .cbInit _ => []
  | .cbPush _ => []
  | .cbGet _ => [0]
  | .cbMean _ => [0]
  | .cbMax _ => [0]
  | .arrMax _ => [0]
  | .arrMin _ => [0]
  | .arrSum _ => [0]
  | .arrMean _ => [0]
  | .maInit _ => []
  | .maMean _ => [0]
  | .maVar _ => [0]
  | .maStd _ => [0]
  | .gzInit => []
  | .gzFeed _ _ => [0, 1]
  | .fftInit => []
  | .fftRun _ _ => [0]
  | .fftAbsMax _ => [0, 1]
  | .crc4 => [0]
  | .crc8 => [0]
  | .crc32 => [0]
  | .nvUnlock => []
  | .nvLock => []
  | .nvObUnlock => []
  | .nvObLock => []
  | .nvWpSet _ => []
  | .nvObLaunch => []
  | .nvErase => []
  | .nvProgByte => []
  | .nvProgWord => []
  | .nvReadByte => [0]
  | .nvRead true => [0, 1]
  | .nvRead false => []
  | .nvWrite true => [0]
  | .nvWrite false => []
  | .otpRead => []
  | .otpWrite => []

/-- The result codes a command raises (R160, column "raised by"). -/
def Instr.codes : Instr → List Machine.ResultCode
  | .acqInit => [.ok, .arg]
  | .acqLoop => [.ok]
  | .acqMean _ _ => [.ok]
  | .acqMeanLim _ _ => [.ok]
  | .acqMeanShift _ _ => [.ok]
  | .acqAbsMean _ _ => [.ok]
  | .acqRms _ _ => [.ok]
  | .acqTrueRms _ _ => [.ok]
  | .acqMax _ _ => [.ok]
  | .acqMin _ _ => [.ok]
  | .acqSetOffset _ _ => [.ok]
  | .acqCma _ _ => [.ok]
  | .acqPeakFwd _ _ => [.ok]
  | .acqPeakRev _ _ => [.ok]
  | .acqSineWin _ _ => [.ok]
  | .hannInit => [.ok, .arg]
  | .hannApply _ _ => [.ok, .arg, .notInit]
  | .hannDirect _ _ => [.ok]
  | .bqInitBp _ => [.ok]
  | .bqInitBs _ => [.ok]
  | .bqInitLp _ => [.ok]
  | .bqLoad _ => [.ok]
  | .bqStep _ => [.ok, .notInit]
  | .emaInitFc _ => [.ok]
  | .emaInitAlpha _ => [.ok]
  | .emaStep _ => [.ok, .notInit]
  | .notchInit _ => [.ok]
  | .notchStep _ => [.ok, .notInit]
  | .cbInit _ => [.ok, .arg]
  | .cbPush _ => [.ok, .notInit]
  | .cbGet _ => [.ok, .arg, .notInit]
  | .cbMean _ => [.ok, .arg, .notInit]
  | .cbMax _ => [.ok, .arg, .notInit]
  | .arrMax _ => [.ok, .arg, .notInit]
  | .arrMin _ => [.ok, .arg, .notInit]
  | .arrSum _ => [.ok, .arg, .notInit]
  | .arrMean _ => [.ok, .arg, .notInit]
  | .maInit _ => [.ok, .arg]
  | .maMean _ => [.ok, .notInit]
  | .maVar _ => [.ok, .notInit]
  | .maStd _ => [.ok, .notInit]
  | .gzInit => [.ok, .arg]
  | .gzFeed _ _ => [.ok, .arg, .notInit]
  | .fftInit => [.ok, .arg]
  | .fftRun _ _ => [.ok, .arg, .notInit]
  | .fftAbsMax _ => [.ok, .arg, .notInit]
  | .crc4 => [.ok, .arg]
  | .crc8 => [.ok, .arg]
  | .crc32 => [.ok, .arg]
  | .nvUnlock => [.ok]
  | .nvLock => [.ok]
  | .nvObUnlock => [.ok]
  | .nvObLock => [.ok]
  | .nvWpSet _ => [.ok, .arg, .writeFail]
  | .nvObLaunch => [.ok, .writeFail]
  | .nvErase => [.ok, .arg, .writeFail]
  | .nvProgByte => [.ok, .arg, .writeFail]
  | .nvProgWord => [.ok, .arg, .writeFail]
  | .nvReadByte => [.ok, .arg]
  | .nvRead true => [.ok, .arg, .crcFail]
  | .nvRead false => [.ok, .arg]
  | .nvWrite _ => [.ok, .arg, .writeFail]
  | .otpRead => [.ok, .empty]
  | .otpWrite => [.ok, .writeFail]

/-- An NV byte is one of a sector's (R139). -/
abbrev Params.InSector (p : Params) (k a : Nat) : Prop := p.sb k ≤ a ∧ a < p.sb k + p.sz k

end Sys2Proof

namespace Sys2Proof.Machine

/-- A step that ends in a model fault (R161): the run is over. -/
def State.Faults (s : State) : Prop := ∃ f, step s = .fault f

/-- The run from `s` ends at `t` because HOST and CMDU are finished (R176, first way). -/
def State.EndsAt (s t : State) : Prop := ∃ n, s.run n = .ended t

/-- The run from `s` ends at the model fault `f`, raised in state `t` (R176, second way; R161). -/
def State.FaultsAt (s : State) (f : Fault) (t : State) : Prop := ∃ n, s.run n = .faulted f t

/-- The run from `s` never ends (R176, third way). -/
def State.RunsForever (s : State) : Prop := ∀ n, ∃ t, s.run n = .going t

/-- `σ` is an infinite run: no state of it is over, and each is the step of the one before it (R15, R176). -/
def IsRun (σ : Nat → State) : Prop := ∀ n, (σ n).over = false ∧ step (σ n) = .next (σ (n + 1))

/-- The agent whose turn the next step is. -/
def State.turn (s : State) : Turn := s.takeTurn.1

/-- The state the agent sees when its turn comes: `s` with the choice of the agent used up. -/
def State.atTurn (s : State) : State := s.takeTurn.2

/-- Weak fairness (R16): a CMDU or PROD step that stays enabled is taken. -/
def WeaklyFair (σ : Nat → State) : Prop :=
  ∀ t, t = Turn.cmdu ∨ t = Turn.produce ∨ t = Turn.complete →
    ∀ n, (∀ m, n ≤ m → (σ m).enabled t = true) → ∃ m, n ≤ m ∧ (σ m).turn = t

/-- Every memory is in its canonical form. -/
abbrev State.Canonical (s : State) : Prop :=
  Memory.wf unwritten s.ring ∧ Memory.wf unwritten s.xbuf ∧ Memory.wf unwritten s.tab ∧ Memory.wf unwritten s.hcoef ∧
    Memory.wf (nvBlank s.cfg) s.nv

/-- The other completion: first and second half alternate (R72). -/
def Completion.other : Completion → Completion
  | .half => .full
  | .full => .half

/-- The completion that `ACTIVE` says comes next (R72). -/
def ActiveBuffer.expected : ActiveBuffer → Completion
  | .notAvailable => .half
  | .first => .full
  | .second => .half

/-- Whether completions alternate from `e` on; the one that comes after them. -/
def alternation (e : Completion) : List Completion → Option Completion
  | [] => some e
  | c :: cs => if c = e then alternation e.other cs else none

/-- The completion the producer reaches next (R71). -/
def State.nextReached (s : State) : Completion := if s.wptr.toNat < s.halfElems then .half else .full

/-- The invariant of an armed producer (R22, R28, R71, R72, R74): a legal geometry that fits the ring, a write pointer
inside it, and pending completions that go on from `ACTIVE` and lead up to the write pointer, alternating. -/
abbrev State.ArmedInv (s : State) : Prop :=
  1 ≤ s.acqC.toNat ∧ s.acqC.toNat ≤ 65536 ∧ 1 ≤ s.acqS.toNat ∧
    2 * s.acqC.toNat * s.acqS.toNat * s.elemBytes ≤ s.cfg.ringBytes ∧
    s.wptr.toNat < s.ringElems ∧ alternation s.active.expected s.fifo = some s.nextReached

/-- The block before its first accepted `ACQ_INIT` (R22, R41). -/
abbrev State.DisarmedInv (s : State) : Prop :=
  s.acqC = 0 ∧ s.acqS = 0 ∧ s.wptr = 0 ∧ s.fifo = [] ∧ s.active = .notAvailable

/-- The arbiter invariant; its last part is 41_acquisition.md R75's corner case. -/
abbrev State.ArbiterInv (s : State) : Prop :=
  s.cfg.valid = true ∧ (if s.armed = true then s.ArmedInv else s.DisarmedInv) ∧
    (s.active = .notAvailable → s.last = .notAvailable)

/-- The option bit a torn-target record names is a sector's (R38). -/
def TornTarget.bitBelow (k : Nat) : TornTarget → Bool
  | .none => true
  | .bytes _ _ => true
  | .optBit j => decide (j < k)

/-- No protection bit above the sectors (R20): `NV_WP`, `NV_OPT_WP`, and the bit `TGT` may name. -/
abbrev State.ProtectionInv (s : State) : Prop :=
  s.cfg.valid = true ∧ s.nvWp.toNat < 2 ^ s.cfg.nvSectors ∧ s.nvOptWp.toNat < 2 ^ s.cfg.nvSectors ∧
    s.tgt.bitBelow s.cfg.nvSectors = true

/-- A circular buffer of capacity `cap` (R35): the array has its full size, the length fits, the write index is inside. -/
abbrev CircBuf.Ok (b : CircBuf) (cap : Nat) : Prop :=
  b.buf.length = cap ∧ b.len ≤ cap ∧ (b.len = 0 ∨ b.idx < b.len)

/-- The unit invariant: `FFT_LEN` and `HANN_LEN` are 0 or an accepted length (R25), the Goertzel counter is below the
block length (R33), circular buffers and moving averages keep their form (R35, R36, R128). -/
abbrev State.UnitInv (s : State) : Prop :=
  s.cfg.valid = true ∧
  (s.fftLen = 0 ∨ s.fftLen.toNat ∈ s.cfg.fftLengths) ∧ s.hannLen.toNat ≤ s.cfg.hannMax ∧
    (if s.gz.n = 0 then s.gz.cnt = 0 else s.gz.cnt.toNat < s.gz.n.toNat) ∧
    (∀ j : Fin 16, s.cb[j].Ok s.cfg.cbMaxL) ∧
    (∀ j : Fin 16, s.ma[j].cb.Ok s.cfg.maMaxL ∧ s.ma[j].cb.len ≠ 1)

/-- How many micro-steps a composite has after its first one (R152, R154). -/
def Composite.microSteps : Composite → Nat
  | .nvWrite _ _ _ _ payload => payload.length + 2
  | .otpWrite _ => 14

/-- The bytes a composite in progress programs lie in one sector (R152), or are the OTP record (R154). -/
def Composite.fits (cfg : Params) : Composite → Bool
  | .nvWrite _ a _ _ payload =>
    decide (sectorFrom cfg.sectorSizes a.toNat < cfg.nvSectors ∧
      a.toNat + payload.length ≤
        cfg.sb (sectorFrom cfg.sectorSizes a.toNat) + cfg.sz (sectorFrom cfg.sectorSizes a.toNat))
  | .otpWrite record => record.length == Params.otpRecBytes

/-- The composite invariant (R39, R185): the index of the next micro-step is one of the composite's, and what it programs
fits. -/
abbrev State.CompositeInv (s : State) : Prop :=
  (s.progress.all fun p =>
    decide (1 ≤ p.index ∧ p.index ≤ p.command.microSteps ∧ p.command.fits s.cfg = true)) = true

/-- How many CMDU steps a composite in progress still needs at most (R185). -/
def State.microStepsLeft (s : State) : Nat :=
  match s.progress with
  | none => 0
  | some p => p.command.microSteps + 1 - p.index

/-- What the arbiter and its consumer do (R71, R72, R75): the events of the delivery law R73. -/
inductive ArbiterEvent where
  /-- PROD's produce step. -/
  | produce
  /-- PROD's completion step. -/
  | complete
  /-- HOST's `ACQ_LOOP`. -/
  | poll
  deriving DecidableEq, Repr

/-- The state after an event: PROD's steps, or the meaning of `ACQ_LOOP`. -/
def State.arbiterStep (s : State) : ArbiterEvent → State
  | .produce => s.produceStep
  | .complete => s.completeStep
  | .poll =>
    match exec .acqLoop s with
    | .next t => t
    | .fault _ => s
    | .refused _ => s

/-- The state after events. -/
def State.arbiterRun (s : State) : List ArbiterEvent → State
  | [] => s
  | e :: es => (s.arbiterStep e).arbiterRun es

/-- The halves the completion steps of the events perform, in order (R72). -/
def State.performed (s : State) : List ArbiterEvent → List ActiveBuffer
  | [] => []
  | e :: es =>
    (if e = .complete ∧ s.fifo ≠ [] then [(s.arbiterStep e).active] else []) ++ (s.arbiterStep e).performed es

/-- The halves the polls of the events deliver, in order (R75): those that answer `RES0` = 1, by `RES1`. -/
def State.delivered (s : State) : List ArbiterEvent → List ActiveBuffer
  | [] => []
  | e :: es =>
    (if e = .poll ∧ (s.arbiterStep e).res[0] = ⟨1, true⟩
      then [if (s.arbiterStep e).res[1].value = 0 then ActiveBuffer.first else ActiveBuffer.second] else [])
      ++ (s.arbiterStep e).delivered es

/-- Whether a poll comes between every two completion steps and after the last one (the premise of R73); `pending` says
that a completion step has not been followed by a poll yet. -/
def polledInTime (pending : Bool) : List ArbiterEvent → Bool
  | [] => !pending
  | .produce :: es => polledInTime pending es
  | .complete :: es => !pending && polledInTime true es
  | .poll :: es => polledInTime false es

/-- Operand register `n` holds the written value `v` (R17). -/
abbrev State.HasArg (s : State) (n : Fin 8) (v : Word) : Prop := s.args[n] = ⟨v, true⟩

/-- The accessor guard passes with half `hf` (R76). -/
abbrev State.Accepts (s : State) (h : HalfSel) (c : Chan) (hf : Half) : Prop :=
  s.active ≠ .notAvailable ∧ c.toNat < s.acqC.toNat ∧ s.resolveHalf h = some hf

/-- The half operand names half `hf` and the channel exists (R95, R96, R112, R115). -/
abbrev State.Names (s : State) (h : HalfSel) (c : Chan) (hf : Half) : Prop :=
  c.toNat < s.acqC.toNat ∧ s.resolveHalf h = some hf

/-- `xs` are the samples `lo`, `lo + 1`, … of a channel: x[s] := E(h, s, c) (R45, R76). -/
abbrev State.Samples (s : State) (hf : Half) (c : Chan) (lo : Nat) (xs : List Int) : Prop :=
  ∀ i, i < xs.length → s.sample? hf (lo + i) c.toNat = xs[i]?

/-- A ring byte is one of a channel's samples in a half (R45). -/
abbrev State.InChannel (s : State) (hf : Half) (c : Chan) (a : Nat) : Prop :=
  ∃ i, i < s.acqS.toNat ∧ s.sampleAddr hf i c.toNat ≤ a ∧ a < s.sampleAddr hf i c.toNat + s.elemBytes

/-- `bs` are the XBUF bytes from `off` on, all written (R37, R133). -/
abbrev State.XbufHas (s : State) (off : Nat) (bs : List Byte) : Prop :=
  ∀ i, i < bs.length → Memory.read unwritten s.xbuf (off + i) = bs[i]?

/-- The step from sample `i` to sample `i + 1` rises (R88). -/
def risingAt (xs : List Int) (i : Nat) : Bool := decide (0 < xs.getD (i + 1) 0 - xs.getD i 0)

/-- `r` is where the direction first flips walking forward, or the boundary 0 if it never does (R89). -/
abbrev IsFirstFlip (xs : List Int) (r : Nat) : Prop :=
  (1 ≤ r ∧ r + 2 ≤ xs.length ∧ risingAt xs r ≠ risingAt xs 0 ∧
    ∀ j, j < r → 1 ≤ j → risingAt xs j = risingAt xs 0) ∨
  (r = 0 ∧ ∀ j, j < xs.length → 1 ≤ j → j + 2 ≤ xs.length → risingAt xs j = risingAt xs 0)

/-- `r` is where the direction first flips walking backward, or the boundary S − 1 if it never does (R90). -/
abbrev IsLastFlip (xs : List Int) (r : Nat) : Prop :=
  (1 ≤ r ∧ r + 2 ≤ xs.length ∧ risingAt xs (r - 1) ≠ risingAt xs (xs.length - 2) ∧
    ∀ j, j < xs.length → r < j → j + 2 ≤ xs.length → risingAt xs (j - 1) = risingAt xs (xs.length - 2)) ∨
  (r = xs.length - 1 ∧
    ∀ j, j < xs.length → 1 ≤ j → j + 2 ≤ xs.length → risingAt xs (j - 1) = risingAt xs (xs.length - 2))

/-- `r` is the first index of the largest magnitude among the first entries of a table (R116). -/
abbrev IsFirstLargest (xs : List Int) (r : Nat) : Prop :=
  r < xs.length ∧ (∀ j, j < xs.length → (xs.getD j 0).natAbs ≤ (xs.getD r 0).natAbs) ∧
    ∀ j, j < r → (xs.getD j 0).natAbs < (xs.getD r 0).natAbs

/-- `g'` is the detector `g` after the sample `x` (R111): the recurrence and its shift, and at the end of a block the
magnitude and the cleared state. -/
def GoertzelStep (x : Int) (g g' : Goertzel) : Prop :=
  ∀ q : F32, q = F32.add (F32.sub (F32.mul g.coeff g.q1) g.q2) (F32.mul (F32.ofInt x) g.inputScaling) →
    if g.cnt + 1 = g.n then
      ∀ re im : F32, re = F32.sub q (F32.mul g.q1 g.cosw) → im = F32.mul g.q1 g.sinw →
        g' = { g with cnt := 0, q0 := 0, q1 := 0, q2 := 0,
                      mag := F32.mul (F32.sqrt (F32.add (F32.mul re re) (F32.mul im im))) g.scalingFactor }
    else g' = { g with cnt := g.cnt + 1, q0 := q, q1 := q, q2 := g.q1 }

/-- A byte of a channel's sample `n` in a half is unwritten (R27, R45). -/
abbrev State.SampleUnwritten (s : State) (hf : Half) (c : Chan) (n : Nat) : Prop :=
  ∃ k, k < s.elemBytes ∧ Memory.read unwritten s.ring (s.sampleAddr hf n c.toNat + k) = none

/-- One of the `n` bytes of a memory from `a` on is unwritten (R27, R29, R34, R37). -/
abbrev Memory.Missing (m : Memory) (a n : Nat) : Prop := ∃ k, k < n ∧ Memory.read unwritten m (a + k) = none

/-- The opcodes of no command (R68). -/
def reservedOpcodes : List Nat :=
  [0x00] ++ List.range' 0x10 0x10 ++ List.range' 0x23 0x0D ++ List.range' 0x35 3 ++ [0x3B] ++ [0x3E, 0x3F]
    ++ List.range' 0x4D 3 ++ List.range' 0x52 0x0E ++ List.range' 0x63 0x0D ++ List.range' 0x73 0x0D
    ++ List.range' 0x8E 0x72

/-- The outcome with `f` applied to the next state. -/
def mapNext (f : State → State) : Result → Result
  | .next t => .next (f t)
  | .fault r => .fault r
  | .refused r => .refused r

/-- At most `n` CMDU steps of the composite in progress, taken one after another (R140): each clears `TGT` first (R38). -/
def State.runMicroSteps (s : State) : Nat → Result
  | 0 => .next s
  | n + 1 =>
    match s.progress with
    | none => .next s
    | some p =>
      match s.clearTgt.microStep p with
      | .next t => t.runMicroSteps n
      | .fault r => .fault r
      | .refused r => .refused r

/-- The next `n` draws are all "no failure". -/
abbrev State.NoFailure (s : State) (n : Nat) : Prop := n ≤ s.drawTape.length ∧ ∀ d ∈ s.drawTape.take n, d % 2 = 0

/-- The next `n` draws are "no failure", and the one after them is a failure. -/
abbrev State.FirstFailure (s : State) (n : Nat) : Prop := s.NoFailure n ∧ s.drawTape.getD n 0 % 2 = 1

end Sys2Proof.Machine
end

