-- ==== Sys2Proof/Certificates/Slice0/Obligations.lean ====
section
/-! DEFINITION. The statements about the model. A conclusion `exec i s = .next t` with `t` written as an update of `s` says
that the command completes, what it writes, and that everything else is unchanged. -/

section

open Sys2Proof Sys2Proof.Machine

/-! ## Encoding -/

/-- Command words written out from the encodings of R67 decode to the commands they stand for. -/
def Obligations.SpecWordsDecode : Prop :=
  decodeWord 0x00000001 = some .acqInit ∧ decodeWord 0x00010103 = some (.acqMean .second 1) ∧
    decodeWord 0x00000203 = some (.acqMean .last 0) ∧ decodeWord 0x00000221 = some (.hannApply .last 0) ∧
    decodeWord 0x00000039 = some (.emaInitAlpha 0) ∧ decodeWord 0x00001040 = some (.cbInit 1) ∧
    decodeWord 0x00000050 = some .gzInit ∧ decodeWord 0x00010261 = some (.fftRun .last 1) ∧
    decodeWord 0x00000462 = some (.fftAbsMax true) ∧ decodeWord 0x00000072 = some .crc32 ∧
    decodeWord 0x00000484 = some (.nvWpSet true) ∧ decodeWord 0x0000008C = some .otpRead

/-- Decoding the word of a command gives the command, for every command the block has and every field value (R59, R67). -/
def Obligations.DecodeOfEncode : Prop :=
  ∀ (p : Params) (i : Instr), i.wf p = true → decode p (encode i) = some i

/-- A word that decodes is the word of the command it decodes to: no other word means the same command (R67, R68). -/
def Obligations.DecodedWordIsItsEncoding : Prop :=
  ∀ (p : Params) (v : Word) (i : Instr), decode p v = some i → encode i = v ∧ i.wf p = true

/-- A reserved opcode, a set `F1` bit and the reserved half selector do not decode (R61, R64, R68). -/
def Obligations.ReservedWordsDoNotDecode : Prop :=
  ∀ (p : Params) (v : Word),
    v.toNat % 256 ∈ reservedOpcodes ∨ v.getLsbD 11 = true ∨ v.extractLsb' 8 2 = 3 → decode p v = none

/-- A write of a word to `CMD` runs the command it decodes to, with the word as read-back, and ends ILLEGAL, writing only
`RC` and the read-back, where it decodes to none (R21, R68). -/
def Obligations.CommandWriteRunsTheWord : Prop :=
  ∀ (s : State) (v : Word),
    (decode s.cfg v = none → s.hostWrite 0 .w4 v = .next { s with cmd := v, rc := .illegal }) ∧
    (∀ i, decode s.cfg v = some i → s.hostWrite 0 .w4 v = exec i { s with cmd := v })

/-! ## Steps -/

/-- When HOST's turn comes, no composite is in progress and HOST's line writes a word to `CMD` that decodes to `i`, the
step is `exec i`, with HOST moved to its next line, the turn used up and `TGT` cleared (R16, R21, R38). -/
def Obligations.StepRunsTheDecodedCommand : Prop :=
  ∀ (s : State) (l : List Turn) (v : Word) (i : Instr),
    s.schedule = .host :: l → s.progress = none →
    s.hostLine? = some (.write s.cfg.blockBase .w4 (.lit v)) → decode s.cfg v = some i →
    step s = exec i { s with schedule := l, tgt := .none, hostPos := s.hostPos + 1, cmd := v }

/-- PROD's steps (R71, R72), outside a composite, and inside one where the parameter lets PROD step there (R185, log 8): a
produce step of an armed block stores the low bytes of the drawn number (log 4), lowest first, as the element at the write
pointer, advances the pointer modulo 2·C·S and appends the completions it reaches; a completion step takes the oldest
completion and sets `ACTIVE`. Elsewhere PROD's turn passes (`CompositesEnd`). -/
def Obligations.ProducerStepsDoTheirWork : Prop :=
  (∀ (s : State) (l : List Turn), s.ArbiterInv → s.armed = true →
    s.progress = none ∨ s.cfg.prodInComposites = true → s.schedule = .produce :: l →
    ∃ t, step s = .next t ∧
      t = { s.draw.2 with schedule := l, tgt := .none, ring := t.ring, wptr := t.wptr, fifo := t.fifo } ∧
      t.wptr.toNat = (s.wptr.toNat + 1) % (2 * (s.acqC.toNat * s.acqS.toNat)) ∧
      t.fifo = s.fifo ++ (if t.wptr.toNat = s.acqC.toNat * s.acqS.toNat then [.half]
        else if t.wptr.toNat = 0 then [.full] else []) ∧
      (∀ k, k < s.elemBytes → Memory.read unwritten t.ring (s.wptr.toNat * s.elemBytes + k) =
        some (BitVec.ofNat 8 (s.draw.1 / 256 ^ k))) ∧
      ∀ a, ¬(s.wptr.toNat * s.elemBytes ≤ a ∧ a < s.wptr.toNat * s.elemBytes + s.elemBytes) →
        Memory.read unwritten t.ring a = Memory.read unwritten s.ring a) ∧
  (∀ (s : State) (l : List Turn) (e : Completion) (rest : List Completion),
    s.progress = none ∨ s.cfg.prodInComposites = true → s.schedule = .complete :: l → s.fifo = e :: rest →
    step s = .next { s with schedule := l, tgt := .none, fifo := rest,
                            active := match e with
                              | .half => .first
                              | .full => .second })

/-! ## Acquisition -/

/-- `ACQ_INIT` rejects a bad geometry with ARG and no change, records a good one and arms the producer, and faults when an
operand is unwritten (R74). -/
def Obligations.AcqInitRecordsOrRejects : Prop :=
  (∀ (s : State) (c n w : Word), s.HasArg 0 c → s.HasArg 1 n → s.HasArg 2 w →
    if 1 < w.toNat ∨ c.toNat = 0 ∨ 65536 < c.toNat ∨ n.toNat = 0 ∨
        s.cfg.ringBytes < 2 * c.toNat * n.toNat * (if w = 0 then 16 / 8 else 32 / 8)
    then exec .acqInit s = .next { s with rc := .arg }
    else exec .acqInit s =
      .next { s with acqC := c, acqS := n, w32 := (w == 1), armed := true, wptr := 0, fifo := [],
                     active := .notAvailable, last := .notAvailable, rc := .ok }) ∧
  (∀ s : State, s.args[(0 : Fin 8)].written = false ∨ s.args[(1 : Fin 8)].written = false ∨
      s.args[(2 : Fin 8)].written = false →
    exec .acqInit s = .fault (.unwrittenArg (.command s.cmd)))

/-- `ACQ_LOOP` delivers the half `ACTIVE` names when it is not the one delivered last, else answers 0 (R75). -/
def Obligations.AcqLoopDeliversOnce : Prop :=
  ∀ s : State,
    (s.active ≠ s.last →
      exec .acqLoop s =
        .next { (((s.setRes 0 1).setRes 1 (if s.active = .first then 0 else 1)).setRes 2 s.acqC).setRes 3 s.acqS with
                last := s.active, rc := .ok }) ∧
    (s.active = s.last → exec .acqLoop s = .next { s.setRes 0 0 with rc := .ok })

/-- Every accessor answers its default, with OK and no sample read or written, before the first completion, for a null
half and for a channel that does not exist (R76). -/
def Obligations.AccessorsAnswerDefaults : Prop :=
  ∀ (s : State) (h : HalfSel) (c : Chan),
    s.active = .notAvailable ∨ s.resolveHalf h = none ∨ s.acqC.toNat ≤ c.toNat →
    (∀ i ∈ [Instr.acqMean h c, .acqAbsMean h c, .acqRms h c], exec i s = .next { s.setRes64 0 with rc := .ok }) ∧
    (∀ i ∈ [Instr.acqMax h c, .acqMin h c, .acqPeakFwd h c, .acqPeakRev h c],
      exec i s = .next { s.setRes 0 0 with rc := .ok }) ∧
    exec (.acqSineWin h c) s = .next { (s.setRes 0 0).setRes 1 0 with rc := .ok } ∧
    (∀ x, s.HasArg 0 x →
      exec (.acqMeanShift h c) s = .next { s.setRes64 0 with rc := .ok } ∧
      exec (.acqSetOffset h c) s = .next { s with rc := .ok } ∧
      ∀ y, s.HasArg 1 y →
        exec (.acqMeanLim h c) s = .next { s.setRes64 0 with rc := .ok } ∧
        exec (.acqTrueRms h c) s = .next { s.setRes64 0 with rc := .ok } ∧
        exec (.acqCma h c) s = .next { s.setRes 0 0 with rc := .ok })

/-- `ACQ_MEAN`, `ACQ_ABSMEAN` and `ACQ_MEANSHIFT` of a channel whose samples are written (R78, R80, R81). -/
def Obligations.MeansOfAChannel : Prop :=
  ∀ (s : State) (h : HalfSel) (c : Chan) (hf : Half) (xs : List Int),
    s.Accepts h c hf → xs.length = s.acqS.toNat → s.Samples hf c 0 xs →
    exec (.acqMean h c) s =
      .next { s.setRes64 (F64.div (F64.ofInt xs.sum) (F64.ofInt s.acqS.toNat)) with rc := .ok } ∧
    exec (.acqAbsMean h c) s =
      .next { s.setRes64 (F64.div (F64.ofInt (xs.map fun x => |x|).sum) (F64.ofInt s.acqS.toNat)) with rc := .ok } ∧
    ∀ k, s.HasArg 0 k →
      exec (.acqMeanShift h c) s =
        .next { s.setRes64 (BitVec.ofInt 64
                  (if 64 ≤ k.toNat then (if xs.sum < 0 then -1 else 0) else xs.sum / 2 ^ k.toNat)) with rc := .ok }

/-- `ACQ_MEANLIM`: the mean of an inclusive window; 0 where begin = end and where the window is reversed or out of range
(R79). -/
def Obligations.MeanOfAWindow : Prop :=
  ∀ (s : State) (h : HalfSel) (c : Chan) (hf : Half) (b e : Word),
    s.Accepts h c hf → s.HasArg 0 b → s.HasArg 1 e →
    (b = e ∨ e.toNat < b.toNat ∨ s.acqS.toNat ≤ e.toNat →
      exec (.acqMeanLim h c) s = .next { s.setRes64 0 with rc := .ok }) ∧
    (∀ xs : List Int, b.toNat < e.toNat → e.toNat < s.acqS.toNat → xs.length = e.toNat - b.toNat + 1 →
      s.Samples hf c b.toNat xs →
      exec (.acqMeanLim h c) s =
        .next { s.setRes64 (F64.div (F64.ofInt xs.sum) (F64.ofInt (xs.length : Int))) with rc := .ok })

/-- `ACQ_RMS` and `ACQ_TRUERMS`: the root mean square where n · max x² < 2⁶³, a draw elsewhere, and 0 for a reversed or
out-of-range window (R82, R83). That a draw is the next number of the tape is log 4. -/
def Obligations.RmsIsExactOrDrawn : Prop :=
  ∀ (s : State) (h : HalfSel) (c : Chan) (hf : Half), s.Accepts h c hf →
    (∀ xs : List Int, xs.length = s.acqS.toNat → s.Samples hf c 0 xs →
      ((∀ x ∈ xs, (xs.length : Int) * (x * x) < 2 ^ 63) →
        exec (.acqRms h c) s =
          .next { s.setRes64 (F64.sqrt (F64.div (F64.ofInt (xs.map fun x => x * x).sum)
                    (F64.ofInt (xs.length : Int)))) with rc := .ok }) ∧
      ((∃ x ∈ xs, 2 ^ 63 ≤ (xs.length : Int) * (x * x)) →
        exec (.acqRms h c) s = .next { s.draw.2.setRes64 (BitVec.ofNat 64 s.draw.1) with rc := .ok })) ∧
    (∀ b e : Word, s.HasArg 0 b → s.HasArg 1 e →
      (e.toNat < b.toNat ∨ s.acqS.toNat ≤ e.toNat →
        exec (.acqTrueRms h c) s = .next { s.setRes64 0 with rc := .ok }) ∧
      (∀ xs : List Int, b.toNat ≤ e.toNat → e.toNat < s.acqS.toNat → xs.length = e.toNat - b.toNat + 1 →
        s.Samples hf c b.toNat xs →
        ((∀ x ∈ xs, (xs.length : Int) * (x * x) < 2 ^ 63) →
          exec (.acqTrueRms h c) s =
            .next { s.setRes64 (F64.sqrt (F64.div (F64.ofInt (xs.map fun x => x * x).sum)
                      (F64.ofInt (xs.length : Int)))) with rc := .ok }) ∧
        ((∃ x ∈ xs, 2 ^ 63 ≤ (xs.length : Int) * (x * x)) →
          exec (.acqTrueRms h c) s = .next { s.draw.2.setRes64 (BitVec.ofNat 64 s.draw.1) with rc := .ok })))

/-- `ACQ_MAX` and `ACQ_MIN`: the sample no other sample of the channel is above, or below (R84, R85). -/
def Obligations.LargestAndSmallestSample : Prop :=
  ∀ (s : State) (h : HalfSel) (c : Chan) (hf : Half) (xs : List Int) (m : Int),
    s.Accepts h c hf → xs.length = s.acqS.toNat → s.Samples hf c 0 xs → m ∈ xs →
    ((∀ x ∈ xs, x ≤ m) → exec (.acqMax h c) s = .next { s.setRes 0 (BitVec.ofInt 32 m) with rc := .ok }) ∧
    ((∀ x ∈ xs, m ≤ x) → exec (.acqMin h c) s = .next { s.setRes 0 (BitVec.ofInt 32 m) with rc := .ok })

/-- `ACQ_SETOFFSET` adds the offset to every sample of the channel, wrapped to W bits; `ACQ_CMA` replaces every sample by
the running average and returns the last one. No other byte of the ring and nothing else but `RC` (and `RES0`) changes
(R86, R87). -/
def Obligations.MutatorsRewriteTheChannel : Prop :=
  ∀ (s : State) (h : HalfSel) (c : Chan) (hf : Half) (xs : List Int) (a0 : Word),
    s.Accepts h c hf → xs.length = s.acqS.toNat → s.Samples hf c 0 xs → s.HasArg 0 a0 →
    (∃ t, exec (.acqSetOffset h c) s = .next t ∧ t = { s with ring := t.ring, rc := .ok } ∧
      (∀ i, i < xs.length → t.sample? hf i c.toNat = some (Int.bmod (xs.getD i 0 + a0.toInt) (2 ^ s.width))) ∧
      ∀ a, ¬s.InChannel hf c a → Memory.read unwritten t.ring a = Memory.read unwritten s.ring a) ∧
    (∀ (k : Word) (ys : List Int), s.HasArg 1 k → ys.length = xs.length →
      (∀ i, i < xs.length →
        ys.getD i 0 = (a0.toInt :: ys).getD i 0 + Int.tdiv (xs.getD i 0 - (a0.toInt :: ys).getD i 0) (k.toNat + 1)) →
      ∃ t, exec (.acqCma h c) s = .next t ∧
        t = { s.setRes 0 (BitVec.ofInt 32 ((a0.toInt :: ys).getD xs.length 0)) with ring := t.ring, rc := .ok } ∧
        (∀ i, i < xs.length → t.sample? hf i c.toNat = some (Int.bmod (ys.getD i 0) (2 ^ s.width))) ∧
        ∀ a, ¬s.InChannel hf c a → Memory.read unwritten t.ring a = Memory.read unwritten s.ring a)

/-- `ACQ_PEAKFWD`, `ACQ_PEAKREV` and `ACQ_SINEWIN` return where the direction of the channel first flips, walking forward
and backward, or the boundary they start from (R88–R91). -/
def Obligations.PeaksAreDirectionFlips : Prop :=
  ∀ (s : State) (h : HalfSel) (c : Chan) (hf : Half) (xs : List Int) (b e : Nat),
    s.Accepts h c hf → xs.length = s.acqS.toNat → 1 ≤ s.acqS.toNat → s.Samples hf c 0 xs →
    IsFirstFlip xs b → IsLastFlip xs e →
    exec (.acqPeakFwd h c) s = .next { s.setRes 0 (BitVec.ofNat 32 b) with rc := .ok } ∧
    exec (.acqPeakRev h c) s = .next { s.setRes 0 (BitVec.ofNat 32 e) with rc := .ok } ∧
    exec (.acqSineWin h c) s =
      .next { (s.setRes 0 (BitVec.ofNat 32 b)).setRes 1 (BitVec.ofNat 32 e) with rc := .ok }

/-! ## Hanning -/

/-- `HANN_INIT` fills the first L coefficients and sets `HANN_LEN`, or rejects the length with no change (R92, R94). -/
def Obligations.HannInitFillsTheTable : Prop :=
  ∀ (s : State) (len : Word), s.HasArg 0 len →
    (len.toNat = 0 ∨ s.cfg.hannMax < len.toNat → exec .hannInit s = .next { s with rc := .arg }) ∧
    (1 ≤ len.toNat → len.toNat ≤ s.cfg.hannMax →
      ∃ t, exec .hannInit s = .next t ∧ t = { s with hcoef := t.hcoef, hannLen := len, rc := .ok } ∧
        (∀ i, i < len.toNat →
          Memory.readBytes unwritten t.hcoef (4 * i) 4 =
            some (leBytes 4 (F32.ofF64 (F64.mul F64.half (F64.sub F64.one (Config.cos (F64.div
              (F64.mul (F64.mul F64.two F64.pi) (F64.ofInt i)) (F64.ofInt len.toNat)))))).toNat)) ∧
        ∀ a, 4 * len.toNat ≤ a → Memory.read unwritten t.hcoef a = Memory.read unwritten s.hcoef a)

/-- `HANN_APPLY` and `HANN_DIRECT` multiply the samples of the channel by the coefficients, rounding toward zero, wherever
the product has an integer part in the element's range, and change no other byte of the ring; for a null half or a channel
that does not exist they do nothing, and a table shorter than the half is ARG (R92, R93, R95, R96). -/
def Obligations.WindowsMultiplyTheChannel : Prop :=
  ∀ (s : State) (h : HalfSel) (c : Chan),
    (s.resolveHalf h = none ∨ s.acqC.toNat ≤ c.toNat →
      exec (.hannDirect h c) s = .next { s with rc := .ok } ∧
      (s.hannLen ≠ 0 → exec (.hannApply h c) s = .next { s with rc := .ok })) ∧
    (∀ hf, s.Names h c hf → s.hannLen ≠ 0 → s.hannLen.toNat < s.acqS.toNat →
      exec (.hannApply h c) s = .next { s with rc := .arg }) ∧
    (∀ (hf : Half) (xs : List Int) (ks : List F32) (i : Instr),
      s.Names h c hf → xs.length = s.acqS.toNat → s.Samples hf c 0 xs → ks.length = s.acqS.toNat →
      (i = .hannDirect h c ∧ ks = (List.range s.acqS.toNat).map (fun n => hcoef n s.acqS.toNat)) ∨
        (i = .hannApply h c ∧ s.hannLen ≠ 0 ∧ s.acqS.toNat ≤ s.hannLen.toNat ∧
          ∀ n, n < s.acqS.toNat → Memory.readBytes unwritten s.hcoef (4 * n) 4 = some (leBytes 4 (ks.getD n 0).toNat)) →
      ∃ t, exec i s = .next t ∧
        t = { s with ring := t.ring, drawTape := t.drawTape, drawCount := t.drawCount, rc := .ok } ∧
        (∀ n v, n < s.acqS.toNat → F32.trunc (F32.mul (F32.ofInt (xs.getD n 0)) (ks.getD n 0)) = some v →
          -(2 ^ (s.width - 1)) ≤ v → v < 2 ^ (s.width - 1) → t.sample? hf n c.toNat = some v) ∧
        ∀ a, ¬s.InChannel hf c a → Memory.read unwritten t.ring a = Memory.read unwritten s.ring a)

/-! ## IIR filters -/

/-- The biquad inits fill the slot with the coefficients of R99–R103, each rounded to f32 once, and zeroed delay lines. -/
def Obligations.BiquadInitsFillTheSlot : Prop :=
  ∀ (s : State) (j : Slot) (w0 w1 w2 : Word), s.HasArg 0 w0 → s.HasArg 1 w1 → s.HasArg 2 w2 →
    (∀ ts fc bw om bwo sn cs al sc m2c a2v : F64,
      ts = F64.ofF32 w0 → fc = F64.ofF32 w1 → bw = F64.ofF32 w2 →
      om = F64.mul (F64.mul (F64.mul F64.two F64.pi) fc) ts →
      bwo = Config.log2 (F64.div (F64.add fc (F64.div bw F64.two)) (F64.sub fc (F64.div bw F64.two))) →
      sn = Config.sin om → cs = Config.cos om →
      al = F64.mul sn (Config.sinh (F64.div (F64.mul (F64.mul (F64.mul F64.half (Config.ln F64.two)) bwo) om) sn)) →
      sc = F64.div F64.one (F64.add F64.one al) → m2c = F64.mul (F64.mul F64.minusTwo cs) sc →
      a2v = F64.mul (F64.sub F64.one al) sc →
      exec (.bqInitBp j) s =
        .next { s.setBq j ⟨true, F32.ofF64 (F64.mul al sc), 0, F32.ofF64 (F64.neg (F64.mul al sc)), F32.ofF64 m2c,
                  F32.ofF64 a2v, 0, 0, 0, 0, 0, 0⟩ with rc := .ok } ∧
      exec (.bqInitBs j) s =
        .next { s.setBq j ⟨true, F32.ofF64 sc, F32.ofF64 m2c, F32.ofF64 sc, F32.ofF64 m2c, F32.ofF64 a2v,
                  0, 0, 0, 0, 0, 0⟩ with rc := .ok } ∧
      exec (.bqInitLp j) s =
        .next { s.setBq j ⟨true, F32.ofF64 (F64.mul (F64.mul F64.half (F64.sub F64.one cs)) sc),
                  F32.ofF64 (F64.mul (F64.sub F64.one cs) sc),
                  F32.ofF64 (F64.mul (F64.mul F64.half (F64.sub F64.one cs)) sc), F32.ofF64 m2c, F32.ofF64 a2v,
                  0, 0, 0, 0, 0, 0⟩ with rc := .ok }) ∧
    (∀ w3 w4, s.HasArg 3 w3 → s.HasArg 4 w4 →
      exec (.bqLoad j) s = .next { s.setBq j ⟨true, w0, w1, w2, w3, w4, 0, 0, 0, 0, 0, 0⟩ with rc := .ok })

/-- One step of an initialised biquad, EMA or notch slot: the output in `RES0`, the delay lines shifted (R104, R107,
R109). -/
def Obligations.FilterStepsComputeTheRecurrence : Prop :=
  ∀ (s : State) (j : Slot) (x : Word), s.HasArg 0 x →
    (∀ (f : Biquad) (y : F32), s.bqSlot j = f → f.initialised = true →
      y = F32.sub (F32.sub (F32.add (F32.add (F32.mul f.b0 x) (F32.mul f.b1 f.x1)) (F32.mul f.b2 f.x2))
        (F32.mul f.a1 f.y1)) (F32.mul f.a2 f.y2) →
      exec (.bqStep j) s =
        .next { (s.setBq j { f with x0 := x, x1 := x, x2 := f.x1, y0 := y, y1 := y, y2 := f.y1 }).setRes 0 y with
                rc := .ok }) ∧
    (∀ (f : Ema) (y : F32), s.emaSlot j = f → f.initialised = true →
      y = F32.add (F32.mul f.alpha x) (F32.mul (F32.sub F32.one f.alpha) f.y) →
      exec (.emaStep j) s = .next { (s.setEma j { f with y := y }).setRes 0 y with rc := .ok }) ∧
    (∀ (f : Notch) (am8 num y : F32), s.notchSlot j = f → f.initialised = true → am8 = F32.sub f.alpha F32.eight →
      num = F32.sub (F32.sub (F32.add (F32.add (F32.mul f.alpha x) (F32.mul (F32.mul F32.two f.x1) am8))
        (F32.mul f.alpha f.x2)) (F32.mul (F32.mul F32.two f.y1) am8)) (F32.mul f.y2 (F32.sub f.alpha f.beta)) →
      y = F32.div num (F32.add f.alpha f.beta) →
      exec (.notchStep j) s =
        .next { (s.setNotch j { f with x0 := x, x1 := x, x2 := f.x1, y0 := y, y1 := y, y2 := f.y1 }).setRes 0 y with
                rc := .ok })

/-- The EMA and notch inits fill the slot: the coefficients of R105, R106 and R108, the state zeroed. -/
def Obligations.EmaAndNotchInitsFillTheSlot : Prop :=
  ∀ (s : State) (j : Slot) (w0 : Word), s.HasArg 0 w0 →
    exec (.emaInitAlpha j) s = .next { s.setEma j ⟨true, w0, 0⟩ with rc := .ok } ∧
    ∀ w1, s.HasArg 1 w1 →
      (∀ (cw : F64) (a b c : F32),
        cw = Config.cos (F64.div (F64.mul F64.pi (F64.ofF32 w0)) (F64.div (F64.ofF32 w1) F64.two)) →
        a = F32.ofF64 (F64.add (F64.sub cw F64.one)
          (F64.sqrt (F64.add (F64.sub (F64.mul cw cw) (F64.mul F64.four cw)) F64.three))) →
        b = (if F32.lt a F32.zero then F32.zero else a) → c = (if F32.lt F32.one b then F32.one else b) →
        exec (.emaInitFc j) s = .next { s.setEma j ⟨true, c, 0⟩ with rc := .ok }) ∧
      ∀ w2, s.HasArg 2 w2 →
        ∀ fc width ts om omp : F64, fc = F64.ofF32 w0 → width = F64.ofF32 w1 → ts = F64.ofF32 w2 →
          om = F64.mul (F64.mul F64.two F64.pi) fc →
          omp = F64.mul (F64.div F64.two ts) (Config.tan (F64.mul (F64.mul F64.half om) ts)) →
          exec (.notchInit j) s =
            .next { s.setNotch j ⟨true, F32.ofF64 (F64.add F64.four (F64.mul (F64.mul omp omp) (F64.mul ts ts))),
                      F32.ofF64 (F64.mul (F64.mul F64.two (F64.mul (F64.mul F64.two F64.pi) width)) ts),
                      0, 0, 0, 0, 0, 0⟩ with rc := .ok }

/-- A command on a slot or unit that has not been initialised ends NOT_INIT: it writes no `RES` register and changes no
state (R95, R98, R112, R115, R116, and 46_fir_moving_average.md). -/
def Obligations.UninitialisedUnitsAnswerNotInit : Prop :=
  ∀ (s : State) (j : Slot) (h : HalfSel) (c : Chan) (f0 : Bool),
    (s.hannLen = 0 → exec (.hannApply h c) s = .next { s with rc := .notInit }) ∧
    (s.fftLen = 0 → exec (.fftRun h c) s = .next { s with rc := .notInit }) ∧
    (s.args[(0 : Fin 8)].written = true →
      ((s.bqSlot j).initialised = false → exec (.bqStep j) s = .next { s with rc := .notInit }) ∧
      ((s.emaSlot j).initialised = false → exec (.emaStep j) s = .next { s with rc := .notInit }) ∧
      ((s.notchSlot j).initialised = false → exec (.notchStep j) s = .next { s with rc := .notInit }) ∧
      ((s.cbSlot j).len = 0 →
        ∀ i ∈ [Instr.cbPush j, .cbGet j, .cbMean j, .cbMax j, .arrMax j, .arrMin j, .arrSum j, .arrMean j],
          exec i s = .next { s with rc := .notInit }) ∧
      ((s.maSlot j).cb.len = 0 →
        ∀ i ∈ [Instr.maMean j, .maVar j, .maStd j], exec i s = .next { s with rc := .notInit }) ∧
      (s.gz.n = 0 → exec (.gzFeed h c) s = .next { s with rc := .notInit }) ∧
      (s.fftLen = 0 → exec (.fftAbsMax f0) s = .next { s with rc := .notInit }))

/-! ## Goertzel -/

/-- `GZ_INIT` sets every constant but `MAG`, clears the running state, or rejects an unusable bin with no change (R110). -/
def Obligations.GoertzelInitSetsTheConstants : Prop :=
  ∀ (s : State) (w0 w1 w2 w3 w4 n w6 : Word) (kr : F64),
    s.HasArg 0 w0 → s.HasArg 1 w1 → s.HasArg 2 w2 → s.HasArg 3 w3 → s.HasArg 4 w4 → s.HasArg 5 n → s.HasArg 6 w6 →
    kr = F64.add F64.half (F64.div (F64.mul (F64.ofInt n.toNat) (F64.ofF32 w3)) (F64.ofF32 w4)) →
    (n = 0 ∨ F64.isNan kr = true ∨ F64.lt kr 0 = true ∨ F64.lt kr F64.two32 = false →
      exec .gzInit s = .next { s with rc := .arg }) ∧
    (∀ (k : Int) (w : F64), n ≠ 0 → F64.isNan kr = false → F64.lt kr 0 = false → F64.lt kr F64.two32 = true →
      F64.trunc kr = some k → w = F64.div (F64.mul (F64.mul F64.two F64.pi) (F64.ofInt k)) (F64.ofInt n.toNat) →
      exec .gzInit s =
        .next { s with
          gz := { n := n, cnt := 0, omega := F32.ofF64 w, sinw := F32.ofF64 (Config.sin w),
                  cosw := F32.ofF64 (Config.cos w), coeff := F32.ofF64 (F64.mul F64.two (Config.cos w)),
                  scalingFactor := F32.ofF64 (F64.div F64.two (F64.ofInt n.toNat)),
                  inputScaling := F32.ofF64 (F64.div (F64.ofF32 w6)
                    (F64.div (F64.mul (F64.ofF32 w0) (F64.ofF32 w2)) (F64.ofF32 w1))),
                  q0 := 0, q1 := 0, q2 := 0, mag := s.gz.mag }
          rc := .ok })

/-- `GZ_FEED` takes the m samples one after another, each by the recurrence, the shift and, at the end of a block, the
magnitude and the cleared state of R111; it counts them modulo the block length over any number of feeds, reports whether a
block was finished, returns the last magnitude if so, and keeps `MAG` if not; a feed of no samples leaves the detector as it
is; a bad half, channel or count is ARG with no change (R111, R112). -/
def Obligations.GoertzelFeedCountsBlocks : Prop :=
  ∀ (s : State) (h : HalfSel) (c : Chan) (m : Word), s.HasArg 0 m → s.gz.n ≠ 0 →
    (s.resolveHalf h = none ∨ s.acqC.toNat ≤ c.toNat ∨ s.acqS.toNat < m.toNat →
      exec (.gzFeed h c) s = .next { s with rc := .arg }) ∧
    (∀ (hf : Half) (xs : List Int), s.gz.cnt.toNat < s.gz.n.toNat → s.Names h c hf → m.toNat ≤ s.acqS.toNat →
      xs.length = m.toNat → s.Samples hf c 0 xs →
      ∃ t, exec (.gzFeed h c) s = .next t ∧
        t.gz = { s.gz with cnt := t.gz.cnt, q0 := t.gz.q0, q1 := t.gz.q1, q2 := t.gz.q2, mag := t.gz.mag } ∧
        t.gz.cnt.toNat = (s.gz.cnt.toNat + m.toNat) % s.gz.n.toNat ∧
        (m = 0 → t.gz = s.gz) ∧
        (∀ x, xs = [x] → GoertzelStep x s.gz t.gz) ∧
        (∃ gs : List Goertzel, gs.length = xs.length + 1 ∧ gs[0]? = some s.gz ∧ gs[xs.length]? = some t.gz ∧
          ∀ k g g', gs[k]? = some g → gs[k + 1]? = some g' → GoertzelStep (xs.getD k 0) g g') ∧
        (s.gz.cnt.toNat + m.toNat < s.gz.n.toNat → t.gz.mag = s.gz.mag) ∧
        t = (if s.gz.n.toNat ≤ s.gz.cnt.toNat + m.toNat
          then { (s.setRes 0 1).setRes 1 t.gz.mag with gz := t.gz, rc := .ok }
          else { s.setRes 0 0 with gz := t.gz, rc := .ok }))

/-! ## FFT -/

/-- `FFT_INIT` sets `FFT_LEN` and makes the table unwritten, or rejects the length; `FFT_RUN` fills the table with the
transform of the channel's first samples and returns the window's offset, or rejects its operands (R113–R115). -/
def Obligations.FftInitAndRun : Prop :=
  (∀ (s : State) (n : Word), s.HasArg 0 n →
    (n.toNat ∉ s.cfg.fftLengths → exec .fftInit s = .next { s with rc := .arg }) ∧
    (n.toNat ∈ s.cfg.fftLengths →
      ∃ t, exec .fftInit s = .next t ∧ t = { s with fftLen := n, tab := t.tab, rc := .ok } ∧
        (∀ a, a < 4 * n.toNat → Memory.read unwritten t.tab a = none) ∧
        ∀ a, 4 * n.toNat ≤ a → Memory.read unwritten t.tab a = Memory.read unwritten s.tab a)) ∧
  (∀ (s : State) (h : HalfSel) (c : Chan), s.fftLen ≠ 0 →
    (s.resolveHalf h = none ∨ s.acqC.toNat ≤ c.toNat ∨ s.w32 = true ∨ s.acqS.toNat < s.fftLen.toNat →
      exec (.fftRun h c) s = .next { s with rc := .arg }) ∧
    (∀ (hf : Half) (xs : List Int), s.Names h c hf → s.w32 = false → s.fftLen.toNat ≤ s.acqS.toNat →
      xs.length = s.fftLen.toNat → s.Samples hf c 0 xs →
      ∃ t, exec (.fftRun h c) s = .next t ∧ t = { s.setRes 0 0x210000 with tab := t.tab, rc := .ok } ∧
        (∀ k, k < 2 * s.fftLen.toNat →
          Memory.readBytes unwritten t.tab (2 * k) 2 =
            some (leBytes 2 (Config.fftEntry s.fftLen.toNat (xs.map (BitVec.ofInt 16)) k).toNat)) ∧
        ∀ a, 4 * s.fftLen.toNat ≤ a → Memory.read unwritten t.tab a = Memory.read unwritten s.tab a))

/-- `FFT_ABSMAX`: index and magnitude of the first largest table entry, (0, 0) for an empty range and, with `F0`, for an
end point; a size above the table is ARG (R116). -/
def Obligations.FftAbsMaxFindsTheFirstLargest : Prop :=
  ∀ (s : State) (f0 : Bool) (size : Word), s.HasArg 0 size → s.fftLen ≠ 0 →
    (2 * s.fftLen.toNat < size.toNat → exec (.fftAbsMax f0) s = .next { s with rc := .arg }) ∧
    (size = 0 → exec (.fftAbsMax f0) s = .next { (s.setRes 0 0).setRes 1 0 with rc := .ok }) ∧
    (∀ (xs : List Int) (r : Nat), size.toNat ≤ 2 * s.fftLen.toNat → xs.length = size.toNat →
      (∀ k, k < xs.length → ∃ v : BitVec 16,
        Memory.readBytes unwritten s.tab (2 * k) 2 = some (leBytes 2 v.toNat) ∧ v.toInt = xs.getD k 0) →
      IsFirstLargest xs r →
      exec (.fftAbsMax f0) s =
        .next (if f0 = true ∧ (r = 0 ∨ r + 1 = xs.length)
          then { (s.setRes 0 0).setRes 1 0 with rc := .ok }
          else { (s.setRes 0 (BitVec.ofNat 32 r)).setRes 1 (BitVec.ofNat 32 (xs.getD r 0).natAbs) with rc := .ok }))

/-! ## Circular buffers and moving averages -/

/-- `CB_INIT`, `CB_PUSH` and `CB_GET` on a circular-buffer slot (R122–R124). -/
def Obligations.CircularBufferCommands : Prop :=
  ∀ (s : State) (j : Slot) (x : Word), s.HasArg 0 x →
    (x.toNat = 0 ∨ s.cfg.cbMaxL < x.toNat → exec (.cbInit j) s = .next { s with rc := .arg }) ∧
    (1 ≤ x.toNat → x.toNat ≤ s.cfg.cbMaxL →
      exec (.cbInit j) s =
        .next { s.setCb j ⟨x.toNat, List.replicate x.toNat 0 ++ (s.cbSlot j).buf.drop x.toNat, 0⟩ with rc := .ok }) ∧
    (∀ b, s.cbSlot j = b → b.len ≠ 0 →
      exec (.cbPush j) s =
        .next { s.setCb j { b with buf := b.buf.set b.idx x, idx := (b.idx + 1) % b.len } with rc := .ok } ∧
      (b.len ≤ x.toNat → exec (.cbGet j) s = .next { s with rc := .arg }) ∧
      (x.toNat < b.len →
        exec (.cbGet j) s = .next { s.setRes 0 (b.buf.getD ((b.idx + x.toNat) % b.len) 0) with rc := .ok }))

/-- After a push the newest element is the pushed one, every other element is one older, and the buffer keeps its form
(R35, R123, R124). -/
def Obligations.PushMakesEveryElementOlder : Prop :=
  ∀ (b : CircBuf) (cap : Nat) (x : F32), b.Ok cap → b.len ≠ 0 →
    (b.push x).Ok cap ∧ (b.push x).len = b.len ∧ (b.push x).byAge (b.len - 1) = x ∧
      ∀ k, k + 1 < b.len → (b.push x).byAge k = b.byAge (k + 1)

/-- The reductions and queries of a circular-buffer slot: ARG for n = 0 or n > L, else the value in `RES0` (R118–R121,
R126, R127). -/
def Obligations.SlotQueriesReturnTheirValue : Prop :=
  ∀ (s : State) (j : Slot) (n : Word) (b : CircBuf), s.HasArg 0 n → s.cbSlot j = b → b.len ≠ 0 →
    (n.toNat = 0 ∨ b.len < n.toNat →
      ∀ i ∈ [Instr.cbMean j, .cbMax j, .arrMax j, .arrMin j, .arrSum j, .arrMean j],
        exec i s = .next { s with rc := .arg }) ∧
    (1 ≤ n.toNat → n.toNat ≤ b.len →
      exec (.arrMax j) s = .next { s.setRes 0 (rmax (b.slice 0 n.toNat)) with rc := .ok } ∧
      exec (.arrMin j) s = .next { s.setRes 0 (rmin (b.slice 0 n.toNat)) with rc := .ok } ∧
      exec (.arrSum j) s = .next { s.setRes 0 (rsum (b.slice 0 n.toNat)) with rc := .ok } ∧
      exec (.arrMean j) s =
        .next { s.setRes 0 (F32.div (rsum (b.slice 0 n.toNat)) (F32.ofInt n.toNat)) with rc := .ok } ∧
      (∀ seg, b.window n.toNat = (seg, none) →
        exec (.cbMean j) s = .next { s.setRes 0 (F32.div (rsum seg) (F32.ofInt n.toNat)) with rc := .ok } ∧
        exec (.cbMax j) s = .next { s.setRes 0 (rmax seg) with rc := .ok }) ∧
      (∀ seg1 seg2, b.window n.toNat = (seg1, some seg2) →
        exec (.cbMean j) s =
          .next { s.setRes 0 (F32.div (F32.add (rsum seg1) (rsum seg2)) (F32.ofInt n.toNat)) with rc := .ok } ∧
        exec (.cbMax j) s = .next { s.setRes 0 (rmax (seg1 ++ seg2)) with rc := .ok }))

/-- The window of the newest n elements is those elements, oldest first; it is one segment exactly when i ≥ n or i = 0; the
first n elements of the backing array are taken in index order (R118, R125). -/
def Obligations.WindowIsTheNewestElements : Prop :=
  ∀ (b : CircBuf) (cap n : Nat), b.Ok cap → b.len ≠ 0 → 1 ≤ n → n ≤ b.len →
    (b.window n).1 ++ (b.window n).2.getD [] = (List.range n).map (fun k => b.byAge (b.len - n + k)) ∧
      ((b.window n).2 = none ↔ n ≤ b.idx ∨ b.idx = 0) ∧ b.slice 0 n = b.buf.take n

/-- `MA_INIT` and the three moving-average steps: sum, mean and variance numerator follow R129 from the element the new one
replaces (R128–R132). -/
def Obligations.MovingAverageCommands : Prop :=
  ∀ (s : State) (j : Slot) (x : Word), s.HasArg 0 x →
    (x.toNat < 2 ∨ s.cfg.maMaxL < x.toNat → exec (.maInit j) s = .next { s with rc := .arg }) ∧
    (2 ≤ x.toNat → x.toNat ≤ s.cfg.maMaxL →
      exec (.maInit j) s =
        .next { s.setMa j ⟨⟨x.toNat, List.replicate x.toNat 0 ++ (s.maSlot j).cb.buf.drop x.toNat, 0⟩, 0, 0, 0⟩ with
                rc := .ok }) ∧
    (∀ (m m' : MovAvg) (xo sum' mean' varSum' : F32), s.maSlot j = m → m.cb.len ≠ 0 → xo = m.cb.buf.getD m.cb.idx 0 →
      sum' = F32.add (F32.sub m.sum xo) x → mean' = F32.div sum' (F32.ofInt m.cb.len) →
      varSum' = F32.add m.varSum
        (F32.mul (F32.sub (F32.sub (F32.add x xo) m.mean) mean') (F32.sub x xo)) →
      m' = ⟨{ m.cb with buf := m.cb.buf.set m.cb.idx x, idx := (m.cb.idx + 1) % m.cb.len }, sum', varSum', mean'⟩ →
      exec (.maMean j) s = .next { (s.setMa j m').setRes 0 mean' with rc := .ok } ∧
      exec (.maVar j) s =
        .next { (s.setMa j m').setRes 0 (F32.div varSum' (F32.ofInt ((m.cb.len - 1 : Nat) : Int))) with rc := .ok } ∧
      exec (.maStd j) s =
        .next { (s.setMa j m').setRes 0 (F32.sqrt (F32.div varSum' (F32.ofInt ((m.cb.len - 1 : Nat) : Int)))) with
                rc := .ok })

/-! ## CRC -/

/-- The CRC commands: ARG for a range outside XBUF (and, for `CRC32`, a length that is no multiple of 4), else the checksum
of the bytes in `RES0` (R133, R135, R136, R138). -/
def Obligations.CrcCommandsReturnTheChecksum : Prop :=
  ∀ (s : State) (xoff len : Word), s.HasArg 0 xoff → s.HasArg 1 len →
    (s.cfg.xbufBytes < xoff.toNat + len.toNat →
      ∀ i ∈ [Instr.crc4, .crc8, .crc32], exec i s = .next { s with rc := .arg }) ∧
    (len.toNat % 4 ≠ 0 → exec .crc32 s = .next { s with rc := .arg }) ∧
    (∀ bs : List Byte, xoff.toNat + len.toNat ≤ s.cfg.xbufBytes → bs.length = len.toNat → s.XbufHas xoff.toNat bs →
      exec .crc4 s = .next { s.setRes 0 ((crcw s.crc4Poly s.crc4Init bs).setWidth 32) with rc := .ok } ∧
      exec .crc8 s = .next { s.setRes 0 ((crcw s.crc8Poly s.crc8Init bs).setWidth 32) with rc := .ok } ∧
      (len.toNat % 4 = 0 → exec .crc32 s = .next { s.setRes 0 (crc32Fn s.cfg (leWords bs)) with rc := .ok }))

/-- Data followed by their own checksum have checksum 0: CRC-8 for every polynomial and initial value, and the default
CRC-32 (a consequence of R134 and R137; what "appended and verified" rests on). -/
def Obligations.AppendedChecksumGivesZero : Prop :=
  (∀ (p v : BitVec 8) (bs : List Byte), crcw p v (bs ++ [crcw p v bs]) = 0) ∧
  (∀ ws : List Word, crc32Default (ws ++ [crc32Default ws]) = 0)

/-! ## Non-volatile sectors -/

/-- The lock commands set and clear the two locks and never fail (R141–R144). -/
def Obligations.LockCommandsSetTheLocks : Prop :=
  ∀ s : State,
    exec .nvUnlock s = .next { s with lock := false, rc := .ok } ∧
    exec .nvLock s = .next { s with lock := true, rc := .ok } ∧
    exec .nvObUnlock s = .next { s with oblock := false, rc := .ok } ∧
    exec .nvObLock s = .next { s with oblock := true, rc := .ok }

/-- `NV_WP_SET` writes one stored option bit and `NV_OB_LAUNCH` loads the stored options; both are refused with WRITE_FAIL
and no change while the option bytes are locked, and end with WRITE_FAIL on a failure draw (R140, R145, R146). -/
def Obligations.OptionCommandsObeyTheirLock : Prop :=
  (∀ (s : State) (f0 : Bool) (k : Word), s.cfg.valid = true → s.HasArg 0 k →
    (s.cfg.nvSectors ≤ k.toNat → exec (.nvWpSet f0) s = .next { s with rc := .arg }) ∧
    (k.toNat < s.cfg.nvSectors → s.oblock = true → exec (.nvWpSet f0) s = .next { s with rc := .writeFail }) ∧
    (k.toNat < s.cfg.nvSectors → s.oblock = false →
      ∃ t, exec (.nvWpSet f0) s = .next t ∧
        t = { s with tgt := .optBit k.toNat, nvOptWp := t.nvOptWp, drawTape := t.drawTape, drawCount := t.drawCount,
                     rc := if s.drawBool.1 then .writeFail else .ok } ∧
        (s.drawBool.1 = false → t.nvOptWp.getLsbD k.toNat = f0) ∧
        ∀ n, n ≠ k.toNat → t.nvOptWp.getLsbD n = s.nvOptWp.getLsbD n)) ∧
  (∀ s : State,
    (s.oblock = true → exec .nvObLaunch s = .next { s with rc := .writeFail }) ∧
    (s.oblock = false →
      exec .nvObLaunch s =
        .next { s.drawBool.2 with nvWp := if s.drawBool.1 then s.nvWp else s.nvOptWp
                                  rc := if s.drawBool.1 then .writeFail else .ok }))

/-- `NV_ERASE`: ARG for a sector that does not exist; WRITE_FAIL with no change while locked or protected; else every byte
of the sector is 0xFF unless the erase fails, and no byte of another sector changes (R140, R147). -/
def Obligations.EraseClearsOneSector : Prop :=
  ∀ (s : State) (k : Word), s.HasArg 0 k →
    (s.cfg.nvSectors ≤ k.toNat → exec .nvErase s = .next { s with rc := .arg }) ∧
    (k.toNat < s.cfg.nvSectors → s.lock = true ∨ s.nvWp.getLsbD k.toNat = true →
      exec .nvErase s = .next { s with rc := .writeFail }) ∧
    (k.toNat < s.cfg.nvSectors → s.lock = false → s.nvWp.getLsbD k.toNat = false →
      ∃ t, exec .nvErase s = .next t ∧
        t = { s with nv := t.nv, tgt := .bytes (s.cfg.sb k.toNat) (s.cfg.sz k.toNat), drawTape := t.drawTape,
                     drawCount := t.drawCount, rc := if s.drawBool.1 then .writeFail else .ok } ∧
        (s.drawBool.1 = false → ∀ a, s.cfg.InSector k.toNat a → t.nvByte a = 0xFF) ∧
        ∀ a, ¬s.cfg.InSector k.toNat a → t.nvByte a = s.nvByte a)

/-- `NV_PROG_BYTE` and `NV_PROG_WORD`: ARG for a bad address; WRITE_FAIL with no change while locked or protected; erased
bytes take the programmed value unless the program fails; no other byte changes (R140, R148, R149). -/
def Obligations.ProgramWritesItsBytes : Prop :=
  ∀ (s : State) (a d : Word) (i : Instr) (v : List Byte), s.HasArg 0 a → s.HasArg 1 d →
    (i = .nvProgByte ∧ v = [d.extractLsb' 0 8]) ∨
      (i = .nvProgWord ∧
        v = [d.extractLsb' 0 8, d.extractLsb' 8 8, d.extractLsb' 16 8, d.extractLsb' 24 8]) →
    (s.cfg.nvBytes < a.toNat + v.length ∨ a.toNat % v.length ≠ 0 → exec i s = .next { s with rc := .arg }) ∧
    (a.toNat + v.length ≤ s.cfg.nvBytes → a.toNat % v.length = 0 →
      (s.lock = true ∨ s.nvWp.getLsbD (s.sectorOf a.toNat) = true → exec i s = .next { s with rc := .writeFail }) ∧
      (s.lock = false → s.nvWp.getLsbD (s.sectorOf a.toNat) = false →
        ∃ t, exec i s = .next t ∧
          t = { s with nv := t.nv, tgt := .bytes a.toNat v.length, drawTape := t.drawTape, drawCount := t.drawCount,
                       rc := t.rc } ∧
          (t.rc = .ok ∨ t.rc = .writeFail) ∧
          ((∀ n, n < v.length → s.nvByte (a.toNat + n) = 0xFF) →
            t.rc = (if s.drawBool.1 then .writeFail else .ok) ∧
            (t.rc = .ok → ∀ n, n < v.length → t.nvByte (a.toNat + n) = v.getD n 0)) ∧
          ∀ b, ¬(a.toNat ≤ b ∧ b < a.toNat + v.length) → t.nvByte b = s.nvByte b))

/-- `NV_READ_BYTE` returns a byte; `NV_READ` copies a range to XBUF and, with `F0`, returns the computed and the stored CRC
and compares them; a bad range is ARG with no change (R150, R151). -/
def Obligations.NvReadsCopyBytes : Prop :=
  ∀ (s : State) (a : Word), s.HasArg 0 a →
    (s.cfg.nvBytes ≤ a.toNat → exec .nvReadByte s = .next { s with rc := .arg }) ∧
    (a.toNat < s.cfg.nvBytes →
      exec .nvReadByte s = .next { s.setRes 0 ((s.nvByte a.toNat).setWidth 32) with rc := .ok }) ∧
    ∀ (f0 : Bool) (n xo : Word), s.HasArg 1 n → s.HasArg 2 xo →
      (s.cfg.nvBytes < a.toNat + n.toNat + (if f0 then 4 else 0) ∨ s.cfg.xbufBytes < xo.toNat + n.toNat ∨
          (f0 = true ∧ n.toNat % 4 ≠ 0) →
        exec (.nvRead f0) s = .next { s with rc := .arg }) ∧
      (∀ (bs : List Byte) (cc sc : Word), a.toNat + n.toNat + (if f0 then 4 else 0) ≤ s.cfg.nvBytes →
        xo.toNat + n.toNat ≤ s.cfg.xbufBytes → (f0 = true → n.toNat % 4 = 0) →
        bs = (List.range n.toNat).map (fun k => s.nvByte (a.toNat + k)) → cc = crc32Fn s.cfg (leWords bs) →
        sc = s.nvByte (a.toNat + n.toNat + 3) ++ s.nvByte (a.toNat + n.toNat + 2) ++ s.nvByte (a.toNat + n.toNat + 1)
          ++ s.nvByte (a.toNat + n.toNat) →
        ∃ t, exec (.nvRead f0) s = .next t ∧
          t = (if f0 then { (s.setRes 0 cc).setRes 1 sc with
                              xbuf := t.xbuf, rc := if cc = sc then .ok else .crcFail }
            else { s with xbuf := t.xbuf, rc := .ok }) ∧
          (∀ k, k < n.toNat → Memory.read unwritten t.xbuf (xo.toNat + k) = some (s.nvByte (a.toNat + k))) ∧
          ∀ b, ¬(xo.toNat ≤ b ∧ b < xo.toNat + n.toNat) → Memory.read unwritten t.xbuf b = Memory.read unwritten s.xbuf b)

/-- The first micro-steps of `NV_WRITE` and `OTP_WRITE` read their operands, reject bad ones with no change, and open the
locks; `OTP_READ` copies the record if the stored option protects it, else is EMPTY (R152–R154). -/
def Obligations.CompositesBeginAndOtpRead : Prop :=
  (∀ (s : State) (f0 : Bool) (a n xo : Word), s.HasArg 0 a → s.HasArg 1 n → s.HasArg 2 xo →
    (s.cfg.xbufBytes < xo.toNat + n.toNat ∨ (f0 = true ∧ n.toNat % 4 ≠ 0) ∨
        s.cfg.nvBytes < a.toNat + n.toNat + (if f0 then 4 else 0) ∨
        s.cfg.sb (s.sectorOf a.toNat) + s.cfg.sz (s.sectorOf a.toNat) < a.toNat + n.toNat + (if f0 then 4 else 0) →
      exec (.nvWrite f0) s = .next { s with rc := .arg }) ∧
    (∀ p : List Byte, xo.toNat + n.toNat ≤ s.cfg.xbufBytes → (f0 = true → n.toNat % 4 = 0) →
      a.toNat + n.toNat + (if f0 then 4 else 0) ≤ s.cfg.nvBytes → s.sectorOf a.toNat < s.cfg.nvSectors →
      a.toNat + n.toNat + (if f0 then 4 else 0) ≤
        s.cfg.sb (s.sectorOf a.toNat) + s.cfg.sz (s.sectorOf a.toNat) →
      p.length = n.toNat → s.XbufHas xo.toNat p →
      exec (.nvWrite f0) s =
        .next (if f0
          then { s.setRes 0 (crc32Fn s.cfg (leWords p)) with
                   lock := false
                   progress := some ⟨.nvWrite f0 a n xo (p ++ leBytes 4 (crc32Fn s.cfg (leWords p)).toNat), 1⟩ }
          else { s with lock := false, progress := some ⟨.nvWrite f0 a n xo p, 1⟩ }))) ∧
  (∀ (s : State) (r : List Byte), r.length = 32 → s.XbufHas 0 r →
    ((r.getD 0 0).toNat = 0 ∨ 2 < (r.getD 0 0).toNat → exec .otpWrite s = .next { s with rc := .writeFail }) ∧
    (1 ≤ (r.getD 0 0).toNat → (r.getD 0 0).toNat ≤ 2 →
      exec .otpWrite s = .next { s with lock := false, oblock := false, progress := some ⟨.otpWrite r, 1⟩ })) ∧
  (∀ s : State,
    (s.nvOptWp.getLsbD s.cfg.otpSector = false → exec .otpRead s = .next { s with rc := .empty }) ∧
    (s.nvOptWp.getLsbD s.cfg.otpSector = true →
      ∃ t, exec .otpRead s = .next t ∧ t = { s with xbuf := t.xbuf, rc := .ok } ∧
        (∀ k, k < 32 → Memory.read unwritten t.xbuf k = some (s.nvByte (s.cfg.sb s.cfg.otpSector + k))) ∧
        ∀ b, 32 ≤ b → Memory.read unwritten t.xbuf b = Memory.read unwritten s.xbuf b))

/-- An `NV_WRITE` of an unprotected sector in which no micro-step fails ends OK after t + 2 further micro-steps: the payload,
and with `F0` its CRC word, stands at the address, the rest of the sector is 0xFF, every other NV byte is as before, and
flash control is locked. One of a protected sector ends WRITE_FAIL at its next micro-step with no NV byte changed. One whose
micro-step `i` + 1 is the first to fail ends WRITE_FAIL there: the bytes before the failing one are programmed, the rest of
the sector is 0xFF but for the target of the failing step. Both leave flash control locked and no composite in progress
(R140, R152, R183). That a failure is a draw of the tape is log 4. -/
def Obligations.NvWriteProgramsThePayload : Prop :=
  ∀ (s : State) (f0 : Bool) (a n xo : Word) (p q : List Byte), s.HasArg 0 a → s.HasArg 1 n → s.HasArg 2 xo →
    xo.toNat + n.toNat ≤ s.cfg.xbufBytes → (f0 = true → n.toNat % 4 = 0) → p.length = n.toNat → s.XbufHas xo.toNat p →
    q = (if f0 then p ++ leBytes 4 (crc32Fn s.cfg (leWords p)).toNat else p) →
    s.sectorOf a.toNat < s.cfg.nvSectors →
    a.toNat + q.length ≤ s.cfg.sb (s.sectorOf a.toNat) + s.cfg.sz (s.sectorOf a.toNat) →
    ∃ u, exec (.nvWrite f0) s = .next u ∧
      (s.nvWp.getLsbD (s.sectorOf a.toNat) = false → s.NoFailure (q.length + 1) →
        ∃ t, u.runMicroSteps (q.length + 2) = .next t ∧
          t.rc = .ok ∧ t.lock = true ∧ t.oblock = s.oblock ∧ t.progress = none ∧ t.nvOptWp = s.nvOptWp ∧ t.nvWp = s.nvWp ∧
          (∀ k, k < q.length → t.nvByte (a.toNat + k) = q.getD k 0) ∧
          (∀ b, s.cfg.InSector (s.sectorOf a.toNat) b → ¬(a.toNat ≤ b ∧ b < a.toNat + q.length) → t.nvByte b = 0xFF) ∧
          ∀ b, ¬s.cfg.InSector (s.sectorOf a.toNat) b → t.nvByte b = s.nvByte b) ∧
      (s.nvWp.getLsbD (s.sectorOf a.toNat) = true →
        u.runMicroSteps 1 = .next { u with tgt := .none, lock := true, progress := none, rc := .writeFail } ∧
          u.nv = s.nv ∧ u.nvOptWp = s.nvOptWp ∧ u.nvWp = s.nvWp ∧ u.oblock = s.oblock) ∧
      ∀ i, s.nvWp.getLsbD (s.sectorOf a.toNat) = false → i ≤ q.length → s.FirstFailure i →
        ∃ t, u.runMicroSteps (i + 1) = .next t ∧
          t.rc = .writeFail ∧ t.lock = true ∧ t.oblock = s.oblock ∧ t.progress = none ∧ t.nvOptWp = s.nvOptWp ∧
          t.nvWp = s.nvWp ∧ (∀ k, k + 1 < i → t.nvByte (a.toNat + k) = q.getD k 0) ∧
          (∀ b, 1 ≤ i → s.cfg.InSector (s.sectorOf a.toNat) b → ¬(a.toNat ≤ b ∧ b < a.toNat + i) → t.nvByte b = 0xFF) ∧
          ∀ b, ¬s.cfg.InSector (s.sectorOf a.toNat) b → t.nvByte b = s.nvByte b

/-- The OTP round trip: `OTP_WRITE` of a record with a legal version, in which no micro-step fails, then `OTP_READ`, leaves
the record in XBUF, whatever the locks and the protection were. If micro-step `i` + 1 is the first to fail, `OTP_WRITE` ends
WRITE_FAIL there with both locks open, no byte of another sector changed, and, where that is one of the micro-steps 2 to 11,
`OTP_READ` then answers EMPTY (R153–R155, R183; log 31 for a failure of the micro-steps 1 and 12). That a failure is a draw
of the tape is log 4. -/
def Obligations.OtpRoundTrip : Prop :=
  ∀ (s : State) (r : List Byte), s.cfg.valid = true → r.length = 32 → s.XbufHas 0 r →
    1 ≤ (r.getD 0 0).toNat → (r.getD 0 0).toNat ≤ 2 →
    ∃ u, exec .otpWrite s = .next u ∧
      (s.NoFailure 13 →
        ∃ t v, u.runMicroSteps 14 = .next t ∧
          t.rc = .ok ∧ t.progress = none ∧ t.lock = true ∧ t.oblock = true ∧
          t.nvWp.getLsbD s.cfg.otpSector = true ∧ t.nvOptWp.getLsbD s.cfg.otpSector = true ∧
          exec .otpRead t = .next v ∧ v.rc = .ok ∧ v.XbufHas 0 r) ∧
      ∀ i, i < 13 → s.FirstFailure i →
        ∃ t, u.runMicroSteps (i + 1) = .next t ∧
          t.rc = .writeFail ∧ t.progress = none ∧ t.lock = false ∧ t.oblock = false ∧
          (∀ b, ¬s.cfg.InSector s.cfg.otpSector b → t.nvByte b = s.nvByte b) ∧
          (1 ≤ i → i ≤ 10 → exec .otpRead t = .next { t with rc := .empty })

/-- Composites end, and a run ends in one of the three ways of R176. A composite in progress never faults and ends: each
CMDU step leaves fewer micro-steps, at most t + 3 for `NV_WRITE` and 15 for `OTP_WRITE` counting the first. A micro-step but
the last goes on to the next one with the locks as they are, or ends the composite with WRITE_FAIL: `NV_WRITE` with `LOCK` = 1,
`OTP_WRITE` with both locks as they are; the last one ends it OK with the locks closed (R140, R152, R154, R183). Every step
keeps the composite invariant. Meanwhile a turn of HOST passes (R16, R39, R185), and one of PROD too where the parameter says
so (R15, D9; log 8; otherwise R185, `ProducerStepsDoTheirWork`). Once HOST and CMDU are finished, they stay finished unless power is lost, and PROD's steps never fault; every run ends at such a
state, ends at a model fault, or never ends, and only one of the three (R161, R176; which steps a run takes after HOST's last
one is log 3). -/
def Obligations.CompositesEnd : Prop :=
  (∀ (s : State) (p : Progress), s.CompositeInv → s.progress = some p →
    ∃ t, s.clearTgt.microStep p = .next t ∧ t.microStepsLeft < s.microStepsLeft ∧
      s.microStepsLeft ≤ p.command.microSteps ∧
      (p.index < p.command.microSteps →
        (t.progress = some ⟨p.command, p.index + 1⟩ ∧ t.rc = s.rc ∧ t.lock = s.lock ∧ t.oblock = s.oblock) ∨
        (t.progress = none ∧ t.rc = .writeFail ∧ t.oblock = s.oblock ∧
          t.lock = match p.command with
            | .nvWrite .. => true
            | .otpWrite _ => s.lock)) ∧
      (p.index = p.command.microSteps →
        t.progress = none ∧ t.rc = .ok ∧ t.lock = true ∧
          t.oblock = match p.command with
            | .nvWrite .. => s.oblock
            | .otpWrite _ => true)) ∧
  (∀ s t : State, s.CompositeInv → step s = .next t → t.CompositeInv) ∧
  (∀ (s : State) (p : Progress), s.progress = some p →
    s.turn = .host ∨ (s.cfg.prodInComposites = false ∧ (s.turn = .produce ∨ s.turn = .complete)) →
    step s = .next s.atTurn) ∧
  (∀ s : State, s.finished = true → s.turn ≠ .powerLoss → ∃ t, step s = .next t ∧ t.finished = true) ∧
  (∀ s : State, (∃ t, s.EndsAt t) ∨ (∃ f t, s.FaultsAt f t) ∨ s.RunsForever) ∧
  ∀ (s t u : State) (f : Fault),
    (s.EndsAt t → t.finished = true ∧ ¬s.FaultsAt f u ∧ ¬s.RunsForever) ∧ (s.FaultsAt f u → ¬s.RunsForever)

/-- A power loss resets everything volatile, drops the composite, restarts HOST, reloads the protection in force, and keeps
NV and the stored options but for the target of the micro-step just taken, and those too if the loss does not tear it (R41,
R158, R172, R173). `State.powerUp` also holds the model's own choices: 0 where R41 leaves a value unspecified (log 2), 0 as
the value HOST last read and the HOST program, the draws and the schedule kept (log 24), the turn as the head of the schedule
(log 5). -/
def Obligations.PowerLossKeepsOnlyNv : Prop :=
  ∀ (s : State) (l : List Turn), s.schedule = .powerLoss :: l →
    ∃ t, step s = .next t ∧
      t = State.powerUp s.cfg t.nv t.nvOptWp t.drawTape t.drawCount l s.turnCount s.hostProgram ∧
      t.nvWp = t.nvOptWp ∧
      (∀ a, (∀ lo n, s.tgt = .bytes lo n → ¬(lo ≤ a ∧ a < lo + n)) → t.nvByte a = s.nvByte a) ∧
      (∀ k, s.tgt ≠ .optBit k → t.nvOptWp.getLsbD k = s.nvOptWp.getLsbD k) ∧
      (s.drawBool.1 = false → t.nvOptWp = s.nvOptWp ∧ ∀ a, t.nvByte a = s.nvByte a)

/-- Write protection in force protects: no step but a power loss changes a byte of a protected sector (R24, R50, R140,
R147). -/
def Obligations.ProtectedSectorKeepsItsBytes : Prop :=
  ∀ (s t : State) (k a : Nat), s.cfg.valid = true → k < s.cfg.nvSectors → s.nvWp.getLsbD k = true →
    s.cfg.InSector k a → s.turn ≠ .powerLoss → step s = .next t → t.nvByte a = s.nvByte a

/-! ## Reset and invariants -/

/-- What reset leaves, where the spec gives a value (R41). -/
def Obligations.ResetValues : Prop :=
  State.reset.cmd = 0 ∧ State.reset.rc = .ok ∧ State.reset.acqC = 0 ∧ State.reset.acqS = 0 ∧ State.reset.wptr = 0 ∧
    State.reset.w32 = false ∧ State.reset.armed = false ∧ State.reset.active = .notAvailable ∧
    State.reset.last = .notAvailable ∧ State.reset.fifo = [] ∧
    (∀ n : Fin 8, State.reset.args[n].written = false) ∧ (∀ n : Fin 4, State.reset.res[n].written = false) ∧
    State.reset.crc4Poly = 0 ∧ State.reset.crc4Init = 0 ∧ State.reset.crc8Poly = 0 ∧ State.reset.crc8Init = 0 ∧
    State.reset.lock = true ∧ State.reset.oblock = true ∧ State.reset.nvWp = State.reset.nvOptWp ∧
    (∀ a, Memory.read unwritten State.reset.ring a = none ∧ Memory.read unwritten State.reset.xbuf a = none ∧
      Memory.read unwritten State.reset.hcoef a = none ∧ Memory.read unwritten State.reset.tab a = none) ∧
    State.reset.fftLen = 0 ∧ State.reset.hannLen = 0 ∧ State.reset.gz.n = 0 ∧ State.reset.gz.cnt = 0 ∧
    (∀ j : Slot, (State.reset.bqSlot j).initialised = false ∧ (State.reset.emaSlot j).initialised = false ∧
      (State.reset.notchSlot j).initialised = false ∧ (State.reset.cbSlot j).len = 0 ∧
      (State.reset.maSlot j).cb.len = 0) ∧
    State.reset.progress = none ∧ State.reset.tgt = .none

/-- The state after reset meets every invariant. -/
def Obligations.ResetMeetsTheInvariants : Prop :=
  State.reset.Canonical ∧ State.reset.ArbiterInv ∧ State.reset.ProtectionInv ∧ State.reset.UnitInv ∧
    State.reset.CompositeInv

/-- Every step keeps every memory in its canonical form, and the parameters as they are. -/
def Obligations.StepKeepsMemoriesCanonical : Prop :=
  ∀ s t : State, s.Canonical → step s = .next t → t.Canonical ∧ t.cfg = s.cfg

/-- Every step keeps the arbiter invariant: an armed producer has a geometry that fits the ring and a write pointer inside
it, and completions stay strictly interleaved First, Second, First, … (R22, R71, R72, R74, R163). -/
def Obligations.StepKeepsTheArbiter : Prop :=
  ∀ s t : State, s.ArbiterInv → step s = .next t → t.ArbiterInv

/-- Every step keeps the protection bits of sectors that do not exist at 0 (R20). -/
def Obligations.StepKeepsProtectionBits : Prop :=
  ∀ s t : State, s.ProtectionInv → step s = .next t → t.ProtectionInv

/-- Every step keeps `FFT_LEN` and `HANN_LEN` at 0 or an accepted length, the Goertzel counter below the block length, and
the circular buffers in form (R25, R33, R35, R36). -/
def Obligations.StepKeepsTheUnits : Prop :=
  ∀ s t : State, s.UnitInv → step s = .next t → t.UnitInv

/-- The delivery law: if HOST polls between every two completion steps, each performed completion is delivered by exactly
one `ACQ_LOOP`, in completion order (R73). -/
def Obligations.EveryCompletionIsDeliveredOnce : Prop :=
  ∀ (s : State) (es : List ArbiterEvent), s.ArbiterInv → s.armed = true → s.active = s.last →
    polledInTime false es = true → s.delivered es = s.performed es

/-- Two completions with no poll between them are lost without any indication: `ACTIVE` is back at `LAST`, and `ACQ_LOOP`
answers 0 (R73, R177; for a `LAST` that names a half, log 29). -/
def Obligations.MissedTraversalIsSilent : Prop :=
  ∀ s : State, s.ArbiterInv → s.armed = true → s.active = s.last → s.last ≠ .notAvailable → 2 ≤ s.fifo.length →
    s.completeStep.completeStep.active = s.last ∧ s.completeStep.completeStep.last = s.last ∧
      exec .acqLoop s.completeStep.completeStep =
        .next { s.completeStep.completeStep.setRes 0 0 with rc := .ok }

/-! ## HOST accesses -/

/-- The register map: a write to a read-only register is ignored, a write to a read-write register keeps the bits it
defines, a word read of each register returns its value with its fields where R20 puts them, a read of an unwritten `RES`
register faults, and so does a command that reads an unwritten `ARG` register (R17, R20, R22–R26). That a HOST read of an
unwritten `ARG` register returns the value it holds is the model's choice (log 12): R17 and R161 give that fault to commands
only. -/
def Obligations.RegisterMapReadsAndWrites : Prop :=
  ∀ (s : State) (v : Word),
    (∀ off ∈ [(0x004 : Int), 0x008, 0x00C, 0x010, 0x014, 0x018, 0x040, 0x044, 0x048, 0x04C, 0x060, 0x064, 0x068, 0x06C,
        0x070, 0x074, 0x078], s.hostWrite off .w4 v = .next s) ∧
    (∀ n : Fin 8, s.hostWrite (0x020 + 4 * n.val) .w4 v = .next { s with args := s.args.set n ⟨v, true⟩ } ∧
      s.hostRead (0x020 + 4 * n.val) .w4 = .ok s.args[n].value ∧
      (s.args[n].written = false → ∀ i : Instr, i.wf s.cfg = true → n ∈ i.argsRead →
        s.hostWrite 0x000 .w4 (encode i) = .fault (.unwrittenArg (.command (encode i))))) ∧
    s.hostWrite 0x050 .w4 v = .next { s with crc4Poly := v.extractLsb' 0 4 } ∧
    s.hostWrite 0x054 .w4 v = .next { s with crc4Init := v.extractLsb' 0 4 } ∧
    s.hostWrite 0x058 .w4 v = .next { s with crc8Poly := v.extractLsb' 0 8 } ∧
    s.hostWrite 0x05C .w4 v = .next { s with crc8Init := v.extractLsb' 0 8 } ∧
    s.hostRead 0x000 .w4 = .ok s.cmd ∧ s.hostRead 0x004 .w4 = .ok s.rc.code ∧ s.hostRead 0x008 .w4 = .ok s.acqC ∧
    s.hostRead 0x00C .w4 = .ok s.acqS ∧ s.hostRead 0x018 .w4 = .ok s.wptr ∧
    (∃ r : Word, s.hostRead 0x010 .w4 = .ok r ∧ r.getLsbD 0 = s.w32 ∧ r.getLsbD 1 = s.armed ∧ r.toNat < 4) ∧
    (∃ r : Word, s.hostRead 0x014 .w4 = .ok r ∧
      (r.extractLsb' 0 2).toNat = (match s.active with
        | .notAvailable => 0
        | .first => 1
        | .second => 2) ∧
      (r.extractLsb' 2 2).toNat = (match s.last with
        | .notAvailable => 0
        | .first => 1
        | .second => 2) ∧ r.toNat < 16) ∧
    (∀ n : Fin 4, s.hostRead (0x040 + 4 * n.val) .w4 =
      if s.res[n].written then .ok s.res[n].value else .error (.unwrittenRes (.host (0x040 + 4 * n.val)))) ∧
    s.hostRead 0x050 .w4 = .ok (s.crc4Poly.setWidth 32) ∧ s.hostRead 0x054 .w4 = .ok (s.crc4Init.setWidth 32) ∧
    s.hostRead 0x058 .w4 = .ok (s.crc8Poly.setWidth 32) ∧ s.hostRead 0x05C .w4 = .ok (s.crc8Init.setWidth 32) ∧
    (∃ r : Word, s.hostRead 0x060 .w4 = .ok r ∧ r.getLsbD 0 = s.lock ∧ r.getLsbD 1 = s.oblock ∧ r.toNat < 4) ∧
    s.hostRead 0x064 .w4 = .ok s.nvWp ∧ s.hostRead 0x068 .w4 = .ok s.nvOptWp ∧ s.hostRead 0x06C .w4 = .ok s.fftLen ∧
    s.hostRead 0x070 .w4 = .ok s.hannLen ∧ s.hostRead 0x074 .w4 = .ok s.gz.n ∧ s.hostRead 0x078 .w4 = .ok s.gz.cnt

/-- The faults of HOST accesses, a write as a read: a register access of another width, a misaligned register or window
access, an offset in no register and no window, an access past a window's extent (R43, R46–R48). That a read reports one of
these where what it would read is also unwritten is the model's choice (log 13). -/
def Obligations.BadAccessesFault : Prop :=
  ∀ (s : State) (off : Int) (w : Width) (v : Word) (f : Fault),
    (off < 0 ∧ f = .unmapped (.host off)) ∨
    (0 ≤ off ∧ off < 0x100 ∧ registerAt (off.toNat / 4 * 4) = none ∧ f = .unmapped (.host off)) ∨
    (0x100 ≤ off ∧ windowAt off.toNat = none ∧ f = .unmapped (.host off)) ∨
    (0 ≤ off ∧ off < 0x100 ∧ (registerAt off.toNat).isSome = true ∧ w ≠ .w4 ∧ f = .badWidth (.host off)) ∨
    (0 ≤ off ∧ off < 0x100 ∧ (registerAt (off.toNat / 4 * 4)).isSome = true ∧ w = .w4 ∧ off.toNat % 4 ≠ 0 ∧
      f = .misaligned (.host off)) ∨
    (∃ win rel, 0x100 ≤ off ∧ windowAt off.toNat = some (win, rel) ∧
      ((s.extent win < rel + w.bytes ∧ rel % w.bytes = 0 ∧ f = .unmapped (.host off)) ∨
       (rel + w.bytes ≤ s.extent win ∧ rel % w.bytes ≠ 0 ∧ f = .misaligned (.host off)))) →
    s.hostWrite off w v = .fault f ∧ s.hostRead off w = .error f

/-- RING and XBUF: a legal write completes, the same access then reads the written value's low bytes, and every other byte of
the windows is as before; a write to FFT_TAB or HANN_TAB is ignored. A legal read of any of the four windows returns the
bytes of the ring, of XBUF, of `TAB` and of `HCOEF`, lowest first, and faults if one of them is unwritten (R27, R29, R34, R37,
R43, R44, R47, R51, R161). -/
def Obligations.WindowWriteThenRead : Prop :=
  ∀ (s : State) (w : Width) (rel : Nat) (v : Word), rel % w.bytes = 0 →
    (rel + w.bytes ≤ s.cfg.ringBytes → s.cfg.ringBytes ≤ 0x100000 →
      ∃ t, s.hostWrite (0x100000 + rel) w v = .next t ∧ t = { s with ring := t.ring } ∧
        t.hostRead (0x100000 + rel) w = .ok (v &&& BitVec.ofNat 32 (2 ^ (8 * w.bytes) - 1)) ∧
        ∀ a, ¬(rel ≤ a ∧ a < rel + w.bytes) → Memory.read unwritten t.ring a = Memory.read unwritten s.ring a) ∧
    (rel + w.bytes ≤ s.cfg.xbufBytes → s.cfg.xbufBytes ≤ 0x10000 →
      ∃ t, s.hostWrite (0x200000 + rel) w v = .next t ∧ t = { s with xbuf := t.xbuf } ∧
        t.hostRead (0x200000 + rel) w = .ok (v &&& BitVec.ofNat 32 (2 ^ (8 * w.bytes) - 1)) ∧
        ∀ a, ¬(rel ≤ a ∧ a < rel + w.bytes) → Memory.read unwritten t.xbuf a = Memory.read unwritten s.xbuf a) ∧
    (rel + w.bytes ≤ 4 * s.fftLen.toNat → rel < 0x10000 → s.hostWrite (0x210000 + rel) w v = .next s) ∧
    (rel + w.bytes ≤ 4 * s.hannLen.toNat → rel < 0x10000 → s.hostWrite (0x220000 + rel) w v = .next s) ∧
    ∀ window ∈ [((0x100000, 0x100000, s.cfg.ringBytes, s.ring) : Nat × Nat × Nat × Memory),
        (0x200000, 0x10000, s.cfg.xbufBytes, s.xbuf), (0x210000, 0x10000, 4 * s.fftLen.toNat, s.tab),
        (0x220000, 0x10000, 4 * s.hannLen.toNat, s.hcoef)],
      ∀ (first size extent : Nat) (m : Memory), window = (first, size, extent, m) →
        rel + w.bytes ≤ extent → rel + w.bytes ≤ size →
        ((∃ k, k < w.bytes ∧ Memory.read unwritten m (rel + k) = none) →
          s.hostRead (first + rel) w = .error (.unwrittenData (.host (first + rel)))) ∧
        ((∀ k, k < w.bytes → Memory.read unwritten m (rel + k) ≠ none) →
          ∃ r : Word, s.hostRead (first + rel) w = .ok r ∧ r.toNat < 2 ^ (8 * w.bytes) ∧
            ∀ k, k < w.bytes → Memory.read unwritten m (rel + k) = some (r.extractLsb' (8 * k) 8))

/-! ## Frames -/

/-- No command is refused, no command writes an `ARG` register, a `RES` register the opcode map does not name or any register
that is HOST's alone; and every command that ends writes a result code the code table gives it (R17, R19, R23, R67, R160). -/
def Obligations.CommandsWriteOnlyNamedRegisters : Prop :=
  ∀ (i : Instr) (s : State),
    (∀ r, exec i s ≠ .refused r) ∧
    ∀ t, exec i s = .next t →
      t.args = s.args ∧ t.cmd = s.cmd ∧ t.cfg = s.cfg ∧
      (∀ n : Fin 4, n ∉ i.resWritten → t.res[n] = s.res[n]) ∧
      t.crc4Poly = s.crc4Poly ∧ t.crc4Init = s.crc4Init ∧ t.crc8Poly = s.crc8Poly ∧ t.crc8Init = s.crc8Init ∧
      t.hostProgram = s.hostProgram ∧ t.hostPos = s.hostPos ∧ t.hostData = s.hostData ∧ t.schedule = s.schedule ∧
      t.turnCount = s.turnCount ∧
      (t.rc ∈ i.codes ∨ (t.rc = s.rc ∧ (t.progress.isSome = true ∧ (i = .otpWrite ∨ ∃ f0, i = .nvWrite f0))))

/-- What each command leaves of the memories, byte by byte: the ring but for the channel a mutating command works on, XBUF
but for the range `NV_READ` and `OTP_READ` fill, the tables but for the commands that make them, NV but for the bytes an
erase or a program names (R45, R71, R94, R114, R115, R147–R153). -/
def Obligations.CommandsKeepOtherMemory : Prop :=
  ∀ (i : Instr) (s t : State), exec i s = .next t →
    (∀ a, (∀ h c, i = .acqSetOffset h c ∨ i = .acqCma h c ∨ i = .hannApply h c ∨ i = .hannDirect h c →
        ∀ hf, s.resolveHalf h = some hf → ¬s.InChannel hf c a) →
      Memory.read unwritten t.ring a = Memory.read unwritten s.ring a) ∧
    (∀ a, (i = .otpRead → 32 ≤ a) →
      (∀ f0, i = .nvRead f0 → ¬((s.args[(2 : Fin 8)]).value.toNat ≤ a ∧
        a < (s.args[(2 : Fin 8)]).value.toNat + (s.args[(1 : Fin 8)]).value.toNat)) →
      Memory.read unwritten t.xbuf a = Memory.read unwritten s.xbuf a) ∧
    (∀ a, (i = .fftInit → 4 * (s.args[(0 : Fin 8)]).value.toNat ≤ a) →
      (∀ h c, i = .fftRun h c → 4 * s.fftLen.toNat ≤ a) →
      Memory.read unwritten t.tab a = Memory.read unwritten s.tab a) ∧
    (∀ a, (i = .hannInit → 4 * (s.args[(0 : Fin 8)]).value.toNat ≤ a) →
      Memory.read unwritten t.hcoef a = Memory.read unwritten s.hcoef a) ∧
    (∀ a, (i = .nvErase → ¬s.cfg.InSector (s.args[(0 : Fin 8)]).value.toNat a) →
      (i = .nvProgByte → a ≠ (s.args[(0 : Fin 8)]).value.toNat) →
      (i = .nvProgWord → ¬((s.args[(0 : Fin 8)]).value.toNat ≤ a ∧ a < (s.args[(0 : Fin 8)]).value.toNat + 4)) →
      t.nvByte a = s.nvByte a)

/-- A command faults for an unwritten operand exactly when an `ARG` register the opcode map names for it is unwritten: the
operand reads come before every other check (R17, R65, R162). A command whose other checks pass faults for unwritten data
when a sample, coefficient, table entry or XBUF byte it reads is unwritten (R27, R29, R34, R37, R161, R162); the peak searches,
which read samples as they walk (R88–R91), when the walk comes to an unwritten one before a flip (log 28). -/
def Obligations.UnwrittenOperandsFault : Prop :=
  (∀ (i : Instr) (s : State),
    exec i s = .fault (.unwrittenArg (.command s.cmd)) ↔ ∃ n ∈ i.argsRead, s.args[n].written = false) ∧
  (∀ (s : State) (h : HalfSel) (c : Chan) (hf : Half) (d : Result), s.Accepts h c hf →
    d = .fault (.unwrittenData (.command s.cmd)) →
    (∀ n, n < s.acqS.toNat → s.SampleUnwritten hf c n →
      (∀ i ∈ [Instr.acqMean h c, .acqAbsMean h c, .acqRms h c, .acqMax h c, .acqMin h c], exec i s = d) ∧
      ∀ x, s.HasArg 0 x → exec (.acqMeanShift h c) s = d ∧ exec (.acqSetOffset h c) s = d ∧
        ∀ y, s.HasArg 1 y → exec (.acqCma h c) s = d ∧
          (y.toNat < s.acqS.toNat → x.toNat ≤ n → n ≤ y.toNat →
            (x ≠ y → exec (.acqMeanLim h c) s = d) ∧ exec (.acqTrueRms h c) s = d)) ∧
    (∀ (n : Nat) (xs : List Int), n < s.acqS.toNat → 2 ≤ s.acqS.toNat → s.SampleUnwritten hf c n →
      (xs.length = n → s.Samples hf c 0 xs → (∀ j, 1 ≤ j → j + 2 ≤ n → risingAt xs j = risingAt xs 0) →
        exec (.acqPeakFwd h c) s = d ∧ exec (.acqSineWin h c) s = d) ∧
      (xs.length + n + 1 = s.acqS.toNat → s.Samples hf c (n + 1) xs →
        (∀ j, j + 2 ≤ xs.length → risingAt xs j = risingAt xs (xs.length - 2)) →
        exec (.acqPeakRev h c) s = d ∧ exec (.acqSineWin h c) s = d))) ∧
  (∀ (s : State) (h : HalfSel) (c : Chan) (hf : Half) (d : Result) (n : Nat), s.Names h c hf →
    d = .fault (.unwrittenData (.command s.cmd)) → s.SampleUnwritten hf c n →
    (n < s.acqS.toNat → exec (.hannDirect h c) s = d ∧
      (s.hannLen ≠ 0 → s.acqS.toNat ≤ s.hannLen.toNat → exec (.hannApply h c) s = d)) ∧
    (∀ m, s.HasArg 0 m → s.gz.n ≠ 0 → m.toNat ≤ s.acqS.toNat → n < m.toNat → exec (.gzFeed h c) s = d) ∧
    (s.fftLen ≠ 0 → s.w32 = false → s.fftLen.toNat ≤ s.acqS.toNat → n < s.fftLen.toNat → exec (.fftRun h c) s = d)) ∧
  (∀ (s : State) (d : Result), d = .fault (.unwrittenData (.command s.cmd)) →
    (∀ h c hf n, s.Names h c hf → s.hannLen ≠ 0 → s.acqS.toNat ≤ s.hannLen.toNat → n < s.acqS.toNat →
      Memory.Missing s.hcoef (4 * n) 4 → exec (.hannApply h c) s = d) ∧
    (Memory.Missing s.xbuf 0 32 → exec .otpWrite s = d) ∧
    ∀ x, s.HasArg 0 x →
      (∀ f0, s.fftLen ≠ 0 → x.toNat ≤ 2 * s.fftLen.toNat → Memory.Missing s.tab 0 (2 * x.toNat) →
        exec (.fftAbsMax f0) s = d) ∧
      ∀ y, s.HasArg 1 y →
        (x.toNat + y.toNat ≤ s.cfg.xbufBytes → Memory.Missing s.xbuf x.toNat y.toNat →
          exec .crc4 s = d ∧ exec .crc8 s = d ∧ (y.toNat % 4 = 0 → exec .crc32 s = d)) ∧
        ∀ (f0 : Bool) (xo : Word), s.HasArg 2 xo → xo.toNat + y.toNat ≤ s.cfg.xbufBytes → (f0 = true → y.toNat % 4 = 0) →
          s.sectorOf x.toNat < s.cfg.nvSectors →
          x.toNat + y.toNat + (if f0 then 4 else 0) ≤
            s.cfg.sb (s.sectorOf x.toNat) + s.cfg.sz (s.sectorOf x.toNat) →
          Memory.Missing s.xbuf xo.toNat y.toNat → exec (.nvWrite f0) s = d)

/-- A command depends on no `ARG` register but those the opcode map names for it: with the others replaced, it does the same
(R65). -/
def Obligations.OnlyNamedOperandsAreRead : Prop :=
  ∀ (i : Instr) (s : State) (args : Vector MarkedReg 8), (∀ n ∈ i.argsRead, args[n] = s.args[n]) →
    exec i { s with args := args } = mapNext (fun t => { t with args := args }) (exec i s)

/-- The OTP records: a version 1 record, and a version 2 record whose reserved bytes have the configured length, laid over 32
bytes, are 32 bytes long, carry their version at offset 0, and parse back (R156). -/
def Obligations.BoardInfoRecordsParseBack : Prop :=
  ∀ (cfg : Params) (pad : List Byte) (info : BoardInfo), cfg.otpV2Rsv ≤ 23 → pad.length = 32 →
    (∀ t u r m n d, info = .v2 t u r m n d → r.length = cfg.otpV2Rsv) →
    (info.record cfg pad).length = 32 ∧ BoardInfo.parse cfg (info.record cfg pad) = some info ∧
      ((info.record cfg pad).getD 0 0 = 1 ∨ (info.record cfg pad).getD 0 0 = 2)

end
end

