-- ==== Sys2Proof/Laws/Float.lean ====
section
/-! SUPPORT. The NaN that an operation produces is a NaN, whichever it is (R13). -/

namespace Sys2Proof.Machine

/-- `NAN64` is a NaN. -/
theorem F64.isNan_nan (op : FpOp) (l : List Nat) : F64.isNan (F64.nan op l) = true := by
  generalize h : (Config.nan64 op l).toNat = raw
  have hlt : raw < 2 ^ 64 := by rw [← h]; exact BitVec.isLt _
  unfold F64.isNan F64.nan
  rw [h]
  unfold FloatFormat.toNan
  split
  · rw [BitVec.toNat_ofNat, Nat.mod_eq_of_lt hlt]; assumption
  · decide +kernel

/-- A NaN summand makes a NaN sum. -/
theorem F64.isNan_add_right (a b : F64) (h : F64.isNan b = true) : F64.isNan (F64.add a b) = true := by
  have hb : binary64.unpack b.toNat = .nan := by
    unfold F64.isNan FloatFormat.isNan at h
    split at h
    · assumption
    · cases h
  have : binary64.add a.toNat b.toNat = none := by
    unfold FloatFormat.add
    rw [hb]
    cases binary64.unpack a.toNat <;> rfl
  unfold F64.add
  rw [this]
  exact F64.isNan_nan _ _

/-- A quotient the format has no number for is a NaN. -/
theorem F64.isNan_div (a b : F64) (h : binary64.div a.toNat b.toNat = none) : F64.isNan (F64.div a b) = true := by
  unfold F64.div
  rw [h]
  exact F64.isNan_nan _ _

end Sys2Proof.Machine
end

