-- ==== Sys2Proof/Laws/Memory.lean ====
section
/-! SUPPORT. The laws of byte memories: what a byte reads as after a store or a clear, that every memory operation keeps
the canonical form, and that canonical memories with the same bytes are the same list. -/

namespace Sys2Proof.Machine

theorem Memory.lookup_append (m n : Memory) (a : Nat) :
    Memory.lookup (m ++ n) a = (Memory.lookup m a).or (Memory.lookup n a) := by
  induction m with
  | nil => simp [Memory.lookup]
  | cons c m ih => obtain ⟨k, v⟩ := c; by_cases h : k = a <;> simp [Memory.lookup, h, ih]

theorem Memory.lookup_filter (m : Memory) (p : Nat → Bool) (a : Nat) :
    Memory.lookup (m.filter fun c => p c.1) a = if p a then Memory.lookup m a else none := by
  induction m with
  | nil => simp [Memory.lookup]
  | cons c m ih =>
    obtain ⟨k, v⟩ := c
    by_cases hk : p k
    · by_cases h : k = a
      · subst h; simp [Memory.lookup, hk]
      · simp [hk, Memory.lookup, h, ih]
    · by_cases h : k = a
      · subst h; simp [hk, ih]
      · simp [hk, Memory.lookup, h, ih]

/-- The listed byte of stored cells: the stored byte inside the range unless it equals the blank. -/
theorem Memory.lookup_stored (blank : Nat → Option Byte) (bs : List Byte) (lo a : Nat) :
    Memory.lookup ((cellsAt lo bs).filter fun c => decide (blank c.1 ≠ some c.2)) a =
      if lo ≤ a ∧ a < lo + bs.length ∧ blank a ≠ bs[a - lo]? then bs[a - lo]? else none := by
  induction bs generalizing lo with
  | nil => simp [cellsAt, Memory.lookup]
  | cons b bs ih =>
    have step := ih (lo + 1)
    simp only [cellsAt, List.filter_cons, List.length_cons]
    by_cases hlo : lo = a
    · subst hlo
      have hgt : ¬(lo + 1 ≤ lo) := by omega
      simp only [hgt, false_and, if_false] at step
      by_cases hb : blank lo = some b
      · simpa [hb] using step
      · simp [hb, Memory.lookup]
    · have hsub : lo + 1 ≤ a → a - lo = (a - (lo + 1)) + 1 := by omega
      have key : (if lo + 1 ≤ a ∧ a < lo + 1 + bs.length ∧ blank a ≠ bs[a - (lo + 1)]? then bs[a - (lo + 1)]? else none)
          = if lo ≤ a ∧ a < lo + (bs.length + 1) ∧ blank a ≠ (b :: bs)[a - lo]? then (b :: bs)[a - lo]? else none := by
        by_cases h1 : lo + 1 ≤ a
        · have h2 : lo ≤ a := by omega
          have h3 : a < lo + 1 + bs.length ↔ a < lo + (bs.length + 1) := by omega
          simp [hsub h1, h1, h2, h3]
        · have h2 : ¬(lo ≤ a) := by omega
          simp [h1, h2]
      by_cases hb : blank lo = some b
      · simpa [hb] using step.trans key
      · simpa [hb, Memory.lookup, hlo] using step.trans key

/-- Read after write, and the frame of a write: the stored bytes inside the range, the old bytes outside it. -/
theorem Memory.read_setRange (blank : Nat → Option Byte) (m : Memory) (lo : Nat) (bs : List Byte) (a : Nat) :
    Memory.read blank (m.setRange blank lo bs) a =
      if lo ≤ a ∧ a < lo + bs.length then bs[a - lo]? else Memory.read blank m a := by
  have e1 := Memory.lookup_filter m (fun k => decide (k < lo)) a
  have e3 := Memory.lookup_filter m (fun k => decide (lo + bs.length ≤ k)) a
  unfold Memory.read Memory.setRange
  rw [Memory.lookup_append, Memory.lookup_append, Memory.lookup_stored, e1, e3]
  by_cases h1 : a < lo
  · have h2 : ¬(lo ≤ a) := by omega
    have h3 : ¬(lo + bs.length ≤ a) := by omega
    simp [h1, h2, h3]
  · have h2 : lo ≤ a := by omega
    by_cases h3 : a < lo + bs.length
    · have h4 : ¬(lo + bs.length ≤ a) := by omega
      have h5 : a - lo < bs.length := by omega
      by_cases hb : blank a = bs[a - lo]?
      · simp [h1, h2, h3, h4, hb]
      · have hb' : ¬(blank a = some bs[a - lo]) := by simpa [List.getElem?_eq_getElem h5] using hb
        simp [h1, h2, h3, hb', List.getElem?_eq_getElem h5]
    · have h4 : lo + bs.length ≤ a := by omega
      simp [h1, h3, h4]

/-- A byte outside the stored range reads as before. -/
theorem Memory.read_setRange_outside {blank : Nat → Option Byte} {m : Memory} {lo : Nat} {bs : List Byte} {a : Nat}
    (h : a < lo ∨ lo + bs.length ≤ a) : Memory.read blank (m.setRange blank lo bs) a = Memory.read blank m a := by
  rw [Memory.read_setRange, if_neg (by omega)]

/-- A cleared byte reads as the blank, every other byte as before. -/
theorem Memory.read_clearRange (blank : Nat → Option Byte) (m : Memory) (lo n a : Nat) :
    Memory.read blank (m.clearRange lo n) a = if lo ≤ a ∧ a < lo + n then blank a else Memory.read blank m a := by
  have e := Memory.lookup_filter m (fun k => decide (k < lo ∨ lo + n ≤ k)) a
  unfold Memory.read Memory.clearRange
  rw [e]
  by_cases h : lo ≤ a ∧ a < lo + n
  · have h' : ¬(a < lo ∨ lo + n ≤ a) := by omega
    simp [h, h']
  · have h' : a < lo ∨ lo + n ≤ a := by omega
    simp [h, h']

theorem Memory.mem_cellsAt {lo : Nat} {bs : List Byte} {c : Host.Cell} (h : c ∈ cellsAt lo bs) :
    lo ≤ c.1 ∧ c.1 < lo + bs.length := by
  induction bs generalizing lo with
  | nil => simp [cellsAt] at h
  | cons b bs ih =>
    rcases List.mem_cons.mp h with rfl | h
    · simp
    · have := ih h; simp only [List.length_cons]; omega

theorem Memory.pairwise_cellsAt (lo : Nat) (bs : List Byte) :
    List.Pairwise (fun c d : Host.Cell => c.1 < d.1) (cellsAt lo bs) := by
  induction bs generalizing lo with
  | nil => exact List.Pairwise.nil
  | cons b bs ih =>
    refine List.Pairwise.cons (fun c hc => ?_) (ih (lo + 1))
    have := Memory.mem_cellsAt hc
    simp only; omega

/-- The empty memory is canonical. -/
@[simp] theorem Memory.wf_nil (blank : Nat → Option Byte) : Memory.wf blank [] := by simp [Memory.wf]

/-- Storing keeps the canonical form. -/
theorem Memory.wf_setRange {blank : Nat → Option Byte} {m : Memory} (h : Memory.wf blank m) (lo : Nat)
    (bs : List Byte) : Memory.wf blank (m.setRange blank lo bs) := by
  obtain ⟨hp, hb⟩ := h
  refine ⟨?_, fun c hc => ?_⟩
  · unfold Memory.setRange
    rw [List.pairwise_append, List.pairwise_append]
    refine ⟨hp.filter _, ⟨(Memory.pairwise_cellsAt lo bs).filter _, hp.filter _, ?_⟩, ?_⟩
    · intro c hc d hd
      have h1 := Memory.mem_cellsAt (List.mem_of_mem_filter hc)
      have h2 := (List.mem_filter.mp hd).2
      simp only [decide_eq_true_eq] at h2
      omega
    · intro c hc d hd
      have h1 := (List.mem_filter.mp hc).2
      simp only [decide_eq_true_eq] at h1
      rcases List.mem_append.mp hd with hd | hd
      · have h2 := Memory.mem_cellsAt (List.mem_of_mem_filter hd)
        omega
      · have h2 := (List.mem_filter.mp hd).2
        simp only [decide_eq_true_eq] at h2
        omega
  · rcases List.mem_append.mp hc with hc | hc
    · exact hb c (List.mem_of_mem_filter hc)
    · rcases List.mem_append.mp hc with hc | hc
      · simpa using (List.mem_filter.mp hc).2
      · exact hb c (List.mem_of_mem_filter hc)

/-- Clearing keeps the canonical form. -/
theorem Memory.wf_clearRange {blank : Nat → Option Byte} {m : Memory} (h : Memory.wf blank m) (lo n : Nat) :
    Memory.wf blank (m.clearRange lo n) :=
  ⟨h.1.filter _, fun c hc => h.2 c (List.mem_of_mem_filter hc)⟩

/-- Reading bytes succeeds when each of them is readable, and gives each of them. -/
theorem Memory.readBytes_eq_some {blank : Nat → Option Byte} {m : Memory} {lo n : Nat} {bs : List Byte} :
    Memory.readBytes blank m lo n = some bs ↔
      bs.length = n ∧ ∀ i, i < n → Memory.read blank m (lo + i) = bs[i]? := by
  induction n generalizing lo bs with
  | zero =>
    constructor
    · intro h; simp [Memory.readBytes] at h; simp [← h]
    · rintro ⟨h, -⟩; simp [Memory.readBytes, List.eq_nil_of_length_eq_zero h]
  | succ n ih =>
    constructor
    · intro h
      unfold Memory.readBytes at h
      split at h
      · rename_i b cs hb hcs
        obtain rfl : b :: cs = bs := by simpa using h
        obtain ⟨hl, hr⟩ := ih.mp hcs
        refine ⟨by simp [hl], fun i hi => ?_⟩
        cases i with
        | zero => simpa using hb
        | succ i =>
          have := hr i (by omega)
          rw [show lo + (i + 1) = lo + 1 + i from by omega, this]; simp
      · simp at h
    · rintro ⟨hl, hr⟩
      cases bs with
      | nil => simp at hl
      | cons b cs =>
        have h0 : Memory.read blank m lo = some b := by simpa using hr 0 (by omega)
        have h1 : Memory.readBytes blank m (lo + 1) n = some cs := by
          refine ih.mpr ⟨by simpa using hl, fun i hi => ?_⟩
          have := hr (i + 1) (by omega)
          rw [show lo + 1 + i = lo + (i + 1) from by omega, this]; simp
        simp [Memory.readBytes, h0, h1]

/-- A range cannot be read exactly when one of its bytes cannot. -/
theorem Memory.readBytes_eq_none {blank : Nat → Option Byte} {m : Memory} {lo n : Nat} :
    Memory.readBytes blank m lo n = none ↔ ∃ k, k < n ∧ Memory.read blank m (lo + k) = none := by
  induction n generalizing lo with
  | zero => simp [Memory.readBytes]
  | succ n ih =>
    have hx : Memory.readBytes blank m lo (n + 1) = none ↔
        Memory.read blank m lo = none ∨ Memory.readBytes blank m (lo + 1) n = none := by
      rw [Memory.readBytes]
      cases Memory.read blank m lo <;> cases Memory.readBytes blank m (lo + 1) n <;> simp
    rw [hx, ih]
    constructor
    · rintro (h | ⟨k, hk, h⟩)
      · exact ⟨0, by omega, h⟩
      · exact ⟨k + 1, by omega, by rw [← h]; congr 1; omega⟩
    · rintro ⟨k, hk, h⟩
      cases k with
      | zero => exact .inl h
      | succ k => exact .inr ⟨k, by omega, by rw [← h]; congr 1; omega⟩

theorem Memory.lookup_isSome_mem {m : Memory} {a : Nat} {v : Byte} (h : Memory.lookup m a = some v) : (a, v) ∈ m := by
  induction m with
  | nil => simp [Memory.lookup] at h
  | cons c m ih =>
    obtain ⟨k, w⟩ := c
    by_cases hk : k = a
    · subst hk; simp [Memory.lookup] at h; simp [h]
    · simp [Memory.lookup, hk] at h; exact List.mem_cons_of_mem _ (ih h)

theorem Memory.lookup_of_mem {m : Memory} (hp : List.Pairwise (fun c d : Host.Cell => c.1 < d.1) m) {a : Nat} {v : Byte}
    (h : (a, v) ∈ m) : Memory.lookup m a = some v := by
  induction m with
  | nil => simp at h
  | cons c m ih =>
    obtain ⟨k, w⟩ := c
    rcases List.mem_cons.mp h with h | h
    · cases h; simp [Memory.lookup]
    · have hlt := (List.pairwise_cons.mp hp).1 _ h
      have hk : k ≠ a := by simp only at hlt; omega
      simp [Memory.lookup, hk, ih (List.pairwise_cons.mp hp).2 h]

/-- Canonical memories with the same bytes are equal data. -/
theorem Memory.ext_of_read {blank : Nat → Option Byte} {m n : Memory} (hm : Memory.wf blank m) (hn : Memory.wf blank n)
    (h : ∀ a, Memory.read blank m a = Memory.read blank n a) : m = n := by
  have half : ∀ {x y : Memory}, Memory.wf blank x → (∀ a, Memory.read blank x a = Memory.read blank y a) →
      ∀ c ∈ x, c ∈ y := by
    intro x y hx hxy c hc
    obtain ⟨a, v⟩ := c
    have h1 := hxy a
    rw [Memory.read, Memory.lookup_of_mem hx.1 hc, Memory.read] at h1
    cases hy : Memory.lookup y a with
    | none => rw [hy] at h1; exact absurd h1.symm (hx.2 _ hc)
    | some w => rw [hy] at h1; cases h1; exact Memory.lookup_isSome_mem hy
  refine List.Pairwise.eq_of_mem_iff hm.1 hn.1 fun c => ⟨half hm h c, half hn (fun a => (h a).symm) c⟩

end Sys2Proof.Machine
end

