-- ==== Sys2Proof/Laws/State.lean ====
section
/-! SUPPORT. One lemma per field per update, true by `rfl`, so that no later proof unfolds a record update; and what draws
change: the tape and the draw counter, nothing else. -/

namespace Sys2Proof.Machine

variable (s : State)

@[simp] theorem State.setRes_cfg (n : Fin 4) (v : Word) : (s.setRes n v).cfg = s.cfg := rfl
@[simp] theorem State.setRes_cmd (n : Fin 4) (v : Word) : (s.setRes n v).cmd = s.cmd := rfl
@[simp] theorem State.setRes_rc (n : Fin 4) (v : Word) : (s.setRes n v).rc = s.rc := rfl
@[simp] theorem State.setRes_args (n : Fin 4) (v : Word) : (s.setRes n v).args = s.args := rfl
@[simp] theorem State.setRes_res (n : Fin 4) (v : Word) : (s.setRes n v).res = s.res.set n ⟨v, true⟩ := rfl
@[simp] theorem State.setRes_acqC (n : Fin 4) (v : Word) : (s.setRes n v).acqC = s.acqC := rfl
@[simp] theorem State.setRes_acqS (n : Fin 4) (v : Word) : (s.setRes n v).acqS = s.acqS := rfl
@[simp] theorem State.setRes_w32 (n : Fin 4) (v : Word) : (s.setRes n v).w32 = s.w32 := rfl
@[simp] theorem State.setRes_armed (n : Fin 4) (v : Word) : (s.setRes n v).armed = s.armed := rfl
@[simp] theorem State.setRes_active (n : Fin 4) (v : Word) : (s.setRes n v).active = s.active := rfl
@[simp] theorem State.setRes_last (n : Fin 4) (v : Word) : (s.setRes n v).last = s.last := rfl
@[simp] theorem State.setRes_wptr (n : Fin 4) (v : Word) : (s.setRes n v).wptr = s.wptr := rfl
@[simp] theorem State.setRes_fifo (n : Fin 4) (v : Word) : (s.setRes n v).fifo = s.fifo := rfl
@[simp] theorem State.setRes_crc4Poly (n : Fin 4) (v : Word) : (s.setRes n v).crc4Poly = s.crc4Poly := rfl
@[simp] theorem State.setRes_crc4Init (n : Fin 4) (v : Word) : (s.setRes n v).crc4Init = s.crc4Init := rfl
@[simp] theorem State.setRes_crc8Poly (n : Fin 4) (v : Word) : (s.setRes n v).crc8Poly = s.crc8Poly := rfl
@[simp] theorem State.setRes_crc8Init (n : Fin 4) (v : Word) : (s.setRes n v).crc8Init = s.crc8Init := rfl
@[simp] theorem State.setRes_lock (n : Fin 4) (v : Word) : (s.setRes n v).lock = s.lock := rfl
@[simp] theorem State.setRes_oblock (n : Fin 4) (v : Word) : (s.setRes n v).oblock = s.oblock := rfl
@[simp] theorem State.setRes_nvWp (n : Fin 4) (v : Word) : (s.setRes n v).nvWp = s.nvWp := rfl
@[simp] theorem State.setRes_nvOptWp (n : Fin 4) (v : Word) : (s.setRes n v).nvOptWp = s.nvOptWp := rfl
@[simp] theorem State.setRes_nv (n : Fin 4) (v : Word) : (s.setRes n v).nv = s.nv := rfl
@[simp] theorem State.setRes_tgt (n : Fin 4) (v : Word) : (s.setRes n v).tgt = s.tgt := rfl
@[simp] theorem State.setRes_progress (n : Fin 4) (v : Word) : (s.setRes n v).progress = s.progress := rfl
@[simp] theorem State.setRes_fftLen (n : Fin 4) (v : Word) : (s.setRes n v).fftLen = s.fftLen := rfl
@[simp] theorem State.setRes_hannLen (n : Fin 4) (v : Word) : (s.setRes n v).hannLen = s.hannLen := rfl
@[simp] theorem State.setRes_gz (n : Fin 4) (v : Word) : (s.setRes n v).gz = s.gz := rfl
@[simp] theorem State.setRes_bq (n : Fin 4) (v : Word) : (s.setRes n v).bq = s.bq := rfl
@[simp] theorem State.setRes_ema (n : Fin 4) (v : Word) : (s.setRes n v).ema = s.ema := rfl
@[simp] theorem State.setRes_notch (n : Fin 4) (v : Word) : (s.setRes n v).notch = s.notch := rfl
@[simp] theorem State.setRes_cb (n : Fin 4) (v : Word) : (s.setRes n v).cb = s.cb := rfl
@[simp] theorem State.setRes_ma (n : Fin 4) (v : Word) : (s.setRes n v).ma = s.ma := rfl
@[simp] theorem State.setRes_ring (n : Fin 4) (v : Word) : (s.setRes n v).ring = s.ring := rfl
@[simp] theorem State.setRes_xbuf (n : Fin 4) (v : Word) : (s.setRes n v).xbuf = s.xbuf := rfl
@[simp] theorem State.setRes_tab (n : Fin 4) (v : Word) : (s.setRes n v).tab = s.tab := rfl
@[simp] theorem State.setRes_hcoef (n : Fin 4) (v : Word) : (s.setRes n v).hcoef = s.hcoef := rfl
@[simp] theorem State.setRes_drawTape (n : Fin 4) (v : Word) : (s.setRes n v).drawTape = s.drawTape := rfl
@[simp] theorem State.setRes_drawCount (n : Fin 4) (v : Word) : (s.setRes n v).drawCount = s.drawCount := rfl
@[simp] theorem State.setRes_schedule (n : Fin 4) (v : Word) : (s.setRes n v).schedule = s.schedule := rfl
@[simp] theorem State.setRes_turnCount (n : Fin 4) (v : Word) : (s.setRes n v).turnCount = s.turnCount := rfl
@[simp] theorem State.setRes_hostProgram (n : Fin 4) (v : Word) : (s.setRes n v).hostProgram = s.hostProgram := rfl
@[simp] theorem State.setRes_hostPos (n : Fin 4) (v : Word) : (s.setRes n v).hostPos = s.hostPos := rfl
@[simp] theorem State.setRes_hostData (n : Fin 4) (v : Word) : (s.setRes n v).hostData = s.hostData := rfl

@[simp] theorem State.setRes64_cfg (r : BitVec 64) : (s.setRes64 r).cfg = s.cfg := rfl
@[simp] theorem State.setRes64_cmd (r : BitVec 64) : (s.setRes64 r).cmd = s.cmd := rfl
@[simp] theorem State.setRes64_rc (r : BitVec 64) : (s.setRes64 r).rc = s.rc := rfl
@[simp] theorem State.setRes64_args (r : BitVec 64) : (s.setRes64 r).args = s.args := rfl
@[simp] theorem State.setRes64_res (r : BitVec 64) : (s.setRes64 r).res = (s.res.set 0 ⟨r.extractLsb' 0 32, true⟩).set 1 ⟨r.extractLsb' 32 32, true⟩ := rfl
@[simp] theorem State.setRes64_acqC (r : BitVec 64) : (s.setRes64 r).acqC = s.acqC := rfl
@[simp] theorem State.setRes64_acqS (r : BitVec 64) : (s.setRes64 r).acqS = s.acqS := rfl
@[simp] theorem State.setRes64_w32 (r : BitVec 64) : (s.setRes64 r).w32 = s.w32 := rfl
@[simp] theorem State.setRes64_armed (r : BitVec 64) : (s.setRes64 r).armed = s.armed := rfl
@[simp] theorem State.setRes64_active (r : BitVec 64) : (s.setRes64 r).active = s.active := rfl
@[simp] theorem State.setRes64_last (r : BitVec 64) : (s.setRes64 r).last = s.last := rfl
@[simp] theorem State.setRes64_wptr (r : BitVec 64) : (s.setRes64 r).wptr = s.wptr := rfl
@[simp] theorem State.setRes64_fifo (r : BitVec 64) : (s.setRes64 r).fifo = s.fifo := rfl
@[simp] theorem State.setRes64_crc4Poly (r : BitVec 64) : (s.setRes64 r).crc4Poly = s.crc4Poly := rfl
@[simp] theorem State.setRes64_crc4Init (r : BitVec 64) : (s.setRes64 r).crc4Init = s.crc4Init := rfl
@[simp] theorem State.setRes64_crc8Poly (r : BitVec 64) : (s.setRes64 r).crc8Poly = s.crc8Poly := rfl
@[simp] theorem State.setRes64_crc8Init (r : BitVec 64) : (s.setRes64 r).crc8Init = s.crc8Init := rfl
@[simp] theorem State.setRes64_lock (r : BitVec 64) : (s.setRes64 r).lock = s.lock := rfl
@[simp] theorem State.setRes64_oblock (r : BitVec 64) : (s.setRes64 r).oblock = s.oblock := rfl
@[simp] theorem State.setRes64_nvWp (r : BitVec 64) : (s.setRes64 r).nvWp = s.nvWp := rfl
@[simp] theorem State.setRes64_nvOptWp (r : BitVec 64) : (s.setRes64 r).nvOptWp = s.nvOptWp := rfl
@[simp] theorem State.setRes64_nv (r : BitVec 64) : (s.setRes64 r).nv = s.nv := rfl
@[simp] theorem State.setRes64_tgt (r : BitVec 64) : (s.setRes64 r).tgt = s.tgt := rfl
@[simp] theorem State.setRes64_progress (r : BitVec 64) : (s.setRes64 r).progress = s.progress := rfl
@[simp] theorem State.setRes64_fftLen (r : BitVec 64) : (s.setRes64 r).fftLen = s.fftLen := rfl
@[simp] theorem State.setRes64_hannLen (r : BitVec 64) : (s.setRes64 r).hannLen = s.hannLen := rfl
@[simp] theorem State.setRes64_gz (r : BitVec 64) : (s.setRes64 r).gz = s.gz := rfl
@[simp] theorem State.setRes64_bq (r : BitVec 64) : (s.setRes64 r).bq = s.bq := rfl
@[simp] theorem State.setRes64_ema (r : BitVec 64) : (s.setRes64 r).ema = s.ema := rfl
@[simp] theorem State.setRes64_notch (r : BitVec 64) : (s.setRes64 r).notch = s.notch := rfl
@[simp] theorem State.setRes64_cb (r : BitVec 64) : (s.setRes64 r).cb = s.cb := rfl
@[simp] theorem State.setRes64_ma (r : BitVec 64) : (s.setRes64 r).ma = s.ma := rfl
@[simp] theorem State.setRes64_ring (r : BitVec 64) : (s.setRes64 r).ring = s.ring := rfl
@[simp] theorem State.setRes64_xbuf (r : BitVec 64) : (s.setRes64 r).xbuf = s.xbuf := rfl
@[simp] theorem State.setRes64_tab (r : BitVec 64) : (s.setRes64 r).tab = s.tab := rfl
@[simp] theorem State.setRes64_hcoef (r : BitVec 64) : (s.setRes64 r).hcoef = s.hcoef := rfl
@[simp] theorem State.setRes64_drawTape (r : BitVec 64) : (s.setRes64 r).drawTape = s.drawTape := rfl
@[simp] theorem State.setRes64_drawCount (r : BitVec 64) : (s.setRes64 r).drawCount = s.drawCount := rfl
@[simp] theorem State.setRes64_schedule (r : BitVec 64) : (s.setRes64 r).schedule = s.schedule := rfl
@[simp] theorem State.setRes64_turnCount (r : BitVec 64) : (s.setRes64 r).turnCount = s.turnCount := rfl
@[simp] theorem State.setRes64_hostProgram (r : BitVec 64) : (s.setRes64 r).hostProgram = s.hostProgram := rfl
@[simp] theorem State.setRes64_hostPos (r : BitVec 64) : (s.setRes64 r).hostPos = s.hostPos := rfl
@[simp] theorem State.setRes64_hostData (r : BitVec 64) : (s.setRes64 r).hostData = s.hostData := rfl

@[simp] theorem State.setSample_cfg (h : Half) (i c : Nat) (v : Int) : (s.setSample h i c v).cfg = s.cfg := rfl
@[simp] theorem State.setSample_cmd (h : Half) (i c : Nat) (v : Int) : (s.setSample h i c v).cmd = s.cmd := rfl
@[simp] theorem State.setSample_rc (h : Half) (i c : Nat) (v : Int) : (s.setSample h i c v).rc = s.rc := rfl
@[simp] theorem State.setSample_args (h : Half) (i c : Nat) (v : Int) : (s.setSample h i c v).args = s.args := rfl
@[simp] theorem State.setSample_res (h : Half) (i c : Nat) (v : Int) : (s.setSample h i c v).res = s.res := rfl
@[simp] theorem State.setSample_acqC (h : Half) (i c : Nat) (v : Int) : (s.setSample h i c v).acqC = s.acqC := rfl
@[simp] theorem State.setSample_acqS (h : Half) (i c : Nat) (v : Int) : (s.setSample h i c v).acqS = s.acqS := rfl
@[simp] theorem State.setSample_w32 (h : Half) (i c : Nat) (v : Int) : (s.setSample h i c v).w32 = s.w32 := rfl
@[simp] theorem State.setSample_armed (h : Half) (i c : Nat) (v : Int) : (s.setSample h i c v).armed = s.armed := rfl
@[simp] theorem State.setSample_active (h : Half) (i c : Nat) (v : Int) : (s.setSample h i c v).active = s.active := rfl
@[simp] theorem State.setSample_last (h : Half) (i c : Nat) (v : Int) : (s.setSample h i c v).last = s.last := rfl
@[simp] theorem State.setSample_wptr (h : Half) (i c : Nat) (v : Int) : (s.setSample h i c v).wptr = s.wptr := rfl
@[simp] theorem State.setSample_fifo (h : Half) (i c : Nat) (v : Int) : (s.setSample h i c v).fifo = s.fifo := rfl
@[simp] theorem State.setSample_crc4Poly (h : Half) (i c : Nat) (v : Int) : (s.setSample h i c v).crc4Poly = s.crc4Poly := rfl
@[simp] theorem State.setSample_crc4Init (h : Half) (i c : Nat) (v : Int) : (s.setSample h i c v).crc4Init = s.crc4Init := rfl
@[simp] theorem State.setSample_crc8Poly (h : Half) (i c : Nat) (v : Int) : (s.setSample h i c v).crc8Poly = s.crc8Poly := rfl
@[simp] theorem State.setSample_crc8Init (h : Half) (i c : Nat) (v : Int) : (s.setSample h i c v).crc8Init = s.crc8Init := rfl
@[simp] theorem State.setSample_lock (h : Half) (i c : Nat) (v : Int) : (s.setSample h i c v).lock = s.lock := rfl
@[simp] theorem State.setSample_oblock (h : Half) (i c : Nat) (v : Int) : (s.setSample h i c v).oblock = s.oblock := rfl
@[simp] theorem State.setSample_nvWp (h : Half) (i c : Nat) (v : Int) : (s.setSample h i c v).nvWp = s.nvWp := rfl
@[simp] theorem State.setSample_nvOptWp (h : Half) (i c : Nat) (v : Int) : (s.setSample h i c v).nvOptWp = s.nvOptWp := rfl
@[simp] theorem State.setSample_nv (h : Half) (i c : Nat) (v : Int) : (s.setSample h i c v).nv = s.nv := rfl
@[simp] theorem State.setSample_tgt (h : Half) (i c : Nat) (v : Int) : (s.setSample h i c v).tgt = s.tgt := rfl
@[simp] theorem State.setSample_progress (h : Half) (i c : Nat) (v : Int) : (s.setSample h i c v).progress = s.progress := rfl
@[simp] theorem State.setSample_fftLen (h : Half) (i c : Nat) (v : Int) : (s.setSample h i c v).fftLen = s.fftLen := rfl
@[simp] theorem State.setSample_hannLen (h : Half) (i c : Nat) (v : Int) : (s.setSample h i c v).hannLen = s.hannLen := rfl
@[simp] theorem State.setSample_gz (h : Half) (i c : Nat) (v : Int) : (s.setSample h i c v).gz = s.gz := rfl
@[simp] theorem State.setSample_bq (h : Half) (i c : Nat) (v : Int) : (s.setSample h i c v).bq = s.bq := rfl
@[simp] theorem State.setSample_ema (h : Half) (i c : Nat) (v : Int) : (s.setSample h i c v).ema = s.ema := rfl
@[simp] theorem State.setSample_notch (h : Half) (i c : Nat) (v : Int) : (s.setSample h i c v).notch = s.notch := rfl
@[simp] theorem State.setSample_cb (h : Half) (i c : Nat) (v : Int) : (s.setSample h i c v).cb = s.cb := rfl
@[simp] theorem State.setSample_ma (h : Half) (i c : Nat) (v : Int) : (s.setSample h i c v).ma = s.ma := rfl
@[simp] theorem State.setSample_ring (h : Half) (i c : Nat) (v : Int) : (s.setSample h i c v).ring = Memory.setRange unwritten s.ring (s.sampleAddr h i c) (s.sampleBytes v) := rfl
@[simp] theorem State.setSample_xbuf (h : Half) (i c : Nat) (v : Int) : (s.setSample h i c v).xbuf = s.xbuf := rfl
@[simp] theorem State.setSample_tab (h : Half) (i c : Nat) (v : Int) : (s.setSample h i c v).tab = s.tab := rfl
@[simp] theorem State.setSample_hcoef (h : Half) (i c : Nat) (v : Int) : (s.setSample h i c v).hcoef = s.hcoef := rfl
@[simp] theorem State.setSample_drawTape (h : Half) (i c : Nat) (v : Int) : (s.setSample h i c v).drawTape = s.drawTape := rfl
@[simp] theorem State.setSample_drawCount (h : Half) (i c : Nat) (v : Int) : (s.setSample h i c v).drawCount = s.drawCount := rfl
@[simp] theorem State.setSample_schedule (h : Half) (i c : Nat) (v : Int) : (s.setSample h i c v).schedule = s.schedule := rfl
@[simp] theorem State.setSample_turnCount (h : Half) (i c : Nat) (v : Int) : (s.setSample h i c v).turnCount = s.turnCount := rfl
@[simp] theorem State.setSample_hostProgram (h : Half) (i c : Nat) (v : Int) : (s.setSample h i c v).hostProgram = s.hostProgram := rfl
@[simp] theorem State.setSample_hostPos (h : Half) (i c : Nat) (v : Int) : (s.setSample h i c v).hostPos = s.hostPos := rfl
@[simp] theorem State.setSample_hostData (h : Half) (i c : Nat) (v : Int) : (s.setSample h i c v).hostData = s.hostData := rfl

@[simp] theorem State.setXbuf_cfg (off : Nat) (bs : List Byte) : (s.setXbuf off bs).cfg = s.cfg := rfl
@[simp] theorem State.setXbuf_cmd (off : Nat) (bs : List Byte) : (s.setXbuf off bs).cmd = s.cmd := rfl
@[simp] theorem State.setXbuf_rc (off : Nat) (bs : List Byte) : (s.setXbuf off bs).rc = s.rc := rfl
@[simp] theorem State.setXbuf_args (off : Nat) (bs : List Byte) : (s.setXbuf off bs).args = s.args := rfl
@[simp] theorem State.setXbuf_res (off : Nat) (bs : List Byte) : (s.setXbuf off bs).res = s.res := rfl
@[simp] theorem State.setXbuf_acqC (off : Nat) (bs : List Byte) : (s.setXbuf off bs).acqC = s.acqC := rfl
@[simp] theorem State.setXbuf_acqS (off : Nat) (bs : List Byte) : (s.setXbuf off bs).acqS = s.acqS := rfl
@[simp] theorem State.setXbuf_w32 (off : Nat) (bs : List Byte) : (s.setXbuf off bs).w32 = s.w32 := rfl
@[simp] theorem State.setXbuf_armed (off : Nat) (bs : List Byte) : (s.setXbuf off bs).armed = s.armed := rfl
@[simp] theorem State.setXbuf_active (off : Nat) (bs : List Byte) : (s.setXbuf off bs).active = s.active := rfl
@[simp] theorem State.setXbuf_last (off : Nat) (bs : List Byte) : (s.setXbuf off bs).last = s.last := rfl
@[simp] theorem State.setXbuf_wptr (off : Nat) (bs : List Byte) : (s.setXbuf off bs).wptr = s.wptr := rfl
@[simp] theorem State.setXbuf_fifo (off : Nat) (bs : List Byte) : (s.setXbuf off bs).fifo = s.fifo := rfl
@[simp] theorem State.setXbuf_crc4Poly (off : Nat) (bs : List Byte) : (s.setXbuf off bs).crc4Poly = s.crc4Poly := rfl
@[simp] theorem State.setXbuf_crc4Init (off : Nat) (bs : List Byte) : (s.setXbuf off bs).crc4Init = s.crc4Init := rfl
@[simp] theorem State.setXbuf_crc8Poly (off : Nat) (bs : List Byte) : (s.setXbuf off bs).crc8Poly = s.crc8Poly := rfl
@[simp] theorem State.setXbuf_crc8Init (off : Nat) (bs : List Byte) : (s.setXbuf off bs).crc8Init = s.crc8Init := rfl
@[simp] theorem State.setXbuf_lock (off : Nat) (bs : List Byte) : (s.setXbuf off bs).lock = s.lock := rfl
@[simp] theorem State.setXbuf_oblock (off : Nat) (bs : List Byte) : (s.setXbuf off bs).oblock = s.oblock := rfl
@[simp] theorem State.setXbuf_nvWp (off : Nat) (bs : List Byte) : (s.setXbuf off bs).nvWp = s.nvWp := rfl
@[simp] theorem State.setXbuf_nvOptWp (off : Nat) (bs : List Byte) : (s.setXbuf off bs).nvOptWp = s.nvOptWp := rfl
@[simp] theorem State.setXbuf_nv (off : Nat) (bs : List Byte) : (s.setXbuf off bs).nv = s.nv := rfl
@[simp] theorem State.setXbuf_tgt (off : Nat) (bs : List Byte) : (s.setXbuf off bs).tgt = s.tgt := rfl
@[simp] theorem State.setXbuf_progress (off : Nat) (bs : List Byte) : (s.setXbuf off bs).progress = s.progress := rfl
@[simp] theorem State.setXbuf_fftLen (off : Nat) (bs : List Byte) : (s.setXbuf off bs).fftLen = s.fftLen := rfl
@[simp] theorem State.setXbuf_hannLen (off : Nat) (bs : List Byte) : (s.setXbuf off bs).hannLen = s.hannLen := rfl
@[simp] theorem State.setXbuf_gz (off : Nat) (bs : List Byte) : (s.setXbuf off bs).gz = s.gz := rfl
@[simp] theorem State.setXbuf_bq (off : Nat) (bs : List Byte) : (s.setXbuf off bs).bq = s.bq := rfl
@[simp] theorem State.setXbuf_ema (off : Nat) (bs : List Byte) : (s.setXbuf off bs).ema = s.ema := rfl
@[simp] theorem State.setXbuf_notch (off : Nat) (bs : List Byte) : (s.setXbuf off bs).notch = s.notch := rfl
@[simp] theorem State.setXbuf_cb (off : Nat) (bs : List Byte) : (s.setXbuf off bs).cb = s.cb := rfl
@[simp] theorem State.setXbuf_ma (off : Nat) (bs : List Byte) : (s.setXbuf off bs).ma = s.ma := rfl
@[simp] theorem State.setXbuf_ring (off : Nat) (bs : List Byte) : (s.setXbuf off bs).ring = s.ring := rfl
@[simp] theorem State.setXbuf_xbuf (off : Nat) (bs : List Byte) : (s.setXbuf off bs).xbuf = Memory.setRange unwritten s.xbuf off bs := rfl
@[simp] theorem State.setXbuf_tab (off : Nat) (bs : List Byte) : (s.setXbuf off bs).tab = s.tab := rfl
@[simp] theorem State.setXbuf_hcoef (off : Nat) (bs : List Byte) : (s.setXbuf off bs).hcoef = s.hcoef := rfl
@[simp] theorem State.setXbuf_drawTape (off : Nat) (bs : List Byte) : (s.setXbuf off bs).drawTape = s.drawTape := rfl
@[simp] theorem State.setXbuf_drawCount (off : Nat) (bs : List Byte) : (s.setXbuf off bs).drawCount = s.drawCount := rfl
@[simp] theorem State.setXbuf_schedule (off : Nat) (bs : List Byte) : (s.setXbuf off bs).schedule = s.schedule := rfl
@[simp] theorem State.setXbuf_turnCount (off : Nat) (bs : List Byte) : (s.setXbuf off bs).turnCount = s.turnCount := rfl
@[simp] theorem State.setXbuf_hostProgram (off : Nat) (bs : List Byte) : (s.setXbuf off bs).hostProgram = s.hostProgram := rfl
@[simp] theorem State.setXbuf_hostPos (off : Nat) (bs : List Byte) : (s.setXbuf off bs).hostPos = s.hostPos := rfl
@[simp] theorem State.setXbuf_hostData (off : Nat) (bs : List Byte) : (s.setXbuf off bs).hostData = s.hostData := rfl

@[simp] theorem State.setNv_cfg (a : Nat) (bs : List Byte) : (s.setNv a bs).cfg = s.cfg := rfl
@[simp] theorem State.setNv_cmd (a : Nat) (bs : List Byte) : (s.setNv a bs).cmd = s.cmd := rfl
@[simp] theorem State.setNv_rc (a : Nat) (bs : List Byte) : (s.setNv a bs).rc = s.rc := rfl
@[simp] theorem State.setNv_args (a : Nat) (bs : List Byte) : (s.setNv a bs).args = s.args := rfl
@[simp] theorem State.setNv_res (a : Nat) (bs : List Byte) : (s.setNv a bs).res = s.res := rfl
@[simp] theorem State.setNv_acqC (a : Nat) (bs : List Byte) : (s.setNv a bs).acqC = s.acqC := rfl
@[simp] theorem State.setNv_acqS (a : Nat) (bs : List Byte) : (s.setNv a bs).acqS = s.acqS := rfl
@[simp] theorem State.setNv_w32 (a : Nat) (bs : List Byte) : (s.setNv a bs).w32 = s.w32 := rfl
@[simp] theorem State.setNv_armed (a : Nat) (bs : List Byte) : (s.setNv a bs).armed = s.armed := rfl
@[simp] theorem State.setNv_active (a : Nat) (bs : List Byte) : (s.setNv a bs).active = s.active := rfl
@[simp] theorem State.setNv_last (a : Nat) (bs : List Byte) : (s.setNv a bs).last = s.last := rfl
@[simp] theorem State.setNv_wptr (a : Nat) (bs : List Byte) : (s.setNv a bs).wptr = s.wptr := rfl
@[simp] theorem State.setNv_fifo (a : Nat) (bs : List Byte) : (s.setNv a bs).fifo = s.fifo := rfl
@[simp] theorem State.setNv_crc4Poly (a : Nat) (bs : List Byte) : (s.setNv a bs).crc4Poly = s.crc4Poly := rfl
@[simp] theorem State.setNv_crc4Init (a : Nat) (bs : List Byte) : (s.setNv a bs).crc4Init = s.crc4Init := rfl
@[simp] theorem State.setNv_crc8Poly (a : Nat) (bs : List Byte) : (s.setNv a bs).crc8Poly = s.crc8Poly := rfl
@[simp] theorem State.setNv_crc8Init (a : Nat) (bs : List Byte) : (s.setNv a bs).crc8Init = s.crc8Init := rfl
@[simp] theorem State.setNv_lock (a : Nat) (bs : List Byte) : (s.setNv a bs).lock = s.lock := rfl
@[simp] theorem State.setNv_oblock (a : Nat) (bs : List Byte) : (s.setNv a bs).oblock = s.oblock := rfl
@[simp] theorem State.setNv_nvWp (a : Nat) (bs : List Byte) : (s.setNv a bs).nvWp = s.nvWp := rfl
@[simp] theorem State.setNv_nvOptWp (a : Nat) (bs : List Byte) : (s.setNv a bs).nvOptWp = s.nvOptWp := rfl
@[simp] theorem State.setNv_nv (a : Nat) (bs : List Byte) : (s.setNv a bs).nv = Memory.setRange (nvBlank s.cfg) s.nv a bs := rfl
@[simp] theorem State.setNv_tgt (a : Nat) (bs : List Byte) : (s.setNv a bs).tgt = s.tgt := rfl
@[simp] theorem State.setNv_progress (a : Nat) (bs : List Byte) : (s.setNv a bs).progress = s.progress := rfl
@[simp] theorem State.setNv_fftLen (a : Nat) (bs : List Byte) : (s.setNv a bs).fftLen = s.fftLen := rfl
@[simp] theorem State.setNv_hannLen (a : Nat) (bs : List Byte) : (s.setNv a bs).hannLen = s.hannLen := rfl
@[simp] theorem State.setNv_gz (a : Nat) (bs : List Byte) : (s.setNv a bs).gz = s.gz := rfl
@[simp] theorem State.setNv_bq (a : Nat) (bs : List Byte) : (s.setNv a bs).bq = s.bq := rfl
@[simp] theorem State.setNv_ema (a : Nat) (bs : List Byte) : (s.setNv a bs).ema = s.ema := rfl
@[simp] theorem State.setNv_notch (a : Nat) (bs : List Byte) : (s.setNv a bs).notch = s.notch := rfl
@[simp] theorem State.setNv_cb (a : Nat) (bs : List Byte) : (s.setNv a bs).cb = s.cb := rfl
@[simp] theorem State.setNv_ma (a : Nat) (bs : List Byte) : (s.setNv a bs).ma = s.ma := rfl
@[simp] theorem State.setNv_ring (a : Nat) (bs : List Byte) : (s.setNv a bs).ring = s.ring := rfl
@[simp] theorem State.setNv_xbuf (a : Nat) (bs : List Byte) : (s.setNv a bs).xbuf = s.xbuf := rfl
@[simp] theorem State.setNv_tab (a : Nat) (bs : List Byte) : (s.setNv a bs).tab = s.tab := rfl
@[simp] theorem State.setNv_hcoef (a : Nat) (bs : List Byte) : (s.setNv a bs).hcoef = s.hcoef := rfl
@[simp] theorem State.setNv_drawTape (a : Nat) (bs : List Byte) : (s.setNv a bs).drawTape = s.drawTape := rfl
@[simp] theorem State.setNv_drawCount (a : Nat) (bs : List Byte) : (s.setNv a bs).drawCount = s.drawCount := rfl
@[simp] theorem State.setNv_schedule (a : Nat) (bs : List Byte) : (s.setNv a bs).schedule = s.schedule := rfl
@[simp] theorem State.setNv_turnCount (a : Nat) (bs : List Byte) : (s.setNv a bs).turnCount = s.turnCount := rfl
@[simp] theorem State.setNv_hostProgram (a : Nat) (bs : List Byte) : (s.setNv a bs).hostProgram = s.hostProgram := rfl
@[simp] theorem State.setNv_hostPos (a : Nat) (bs : List Byte) : (s.setNv a bs).hostPos = s.hostPos := rfl
@[simp] theorem State.setNv_hostData (a : Nat) (bs : List Byte) : (s.setNv a bs).hostData = s.hostData := rfl

@[simp] theorem State.setBq_cfg (j : Slot) (f : Biquad) : (s.setBq j f).cfg = s.cfg := rfl
@[simp] theorem State.setBq_cmd (j : Slot) (f : Biquad) : (s.setBq j f).cmd = s.cmd := rfl
@[simp] theorem State.setBq_rc (j : Slot) (f : Biquad) : (s.setBq j f).rc = s.rc := rfl
@[simp] theorem State.setBq_args (j : Slot) (f : Biquad) : (s.setBq j f).args = s.args := rfl
@[simp] theorem State.setBq_res (j : Slot) (f : Biquad) : (s.setBq j f).res = s.res := rfl
@[simp] theorem State.setBq_acqC (j : Slot) (f : Biquad) : (s.setBq j f).acqC = s.acqC := rfl
@[simp] theorem State.setBq_acqS (j : Slot) (f : Biquad) : (s.setBq j f).acqS = s.acqS := rfl
@[simp] theorem State.setBq_w32 (j : Slot) (f : Biquad) : (s.setBq j f).w32 = s.w32 := rfl
@[simp] theorem State.setBq_armed (j : Slot) (f : Biquad) : (s.setBq j f).armed = s.armed := rfl
@[simp] theorem State.setBq_active (j : Slot) (f : Biquad) : (s.setBq j f).active = s.active := rfl
@[simp] theorem State.setBq_last (j : Slot) (f : Biquad) : (s.setBq j f).last = s.last := rfl
@[simp] theorem State.setBq_wptr (j : Slot) (f : Biquad) : (s.setBq j f).wptr = s.wptr := rfl
@[simp] theorem State.setBq_fifo (j : Slot) (f : Biquad) : (s.setBq j f).fifo = s.fifo := rfl
@[simp] theorem State.setBq_crc4Poly (j : Slot) (f : Biquad) : (s.setBq j f).crc4Poly = s.crc4Poly := rfl
@[simp] theorem State.setBq_crc4Init (j : Slot) (f : Biquad) : (s.setBq j f).crc4Init = s.crc4Init := rfl
@[simp] theorem State.setBq_crc8Poly (j : Slot) (f : Biquad) : (s.setBq j f).crc8Poly = s.crc8Poly := rfl
@[simp] theorem State.setBq_crc8Init (j : Slot) (f : Biquad) : (s.setBq j f).crc8Init = s.crc8Init := rfl
@[simp] theorem State.setBq_lock (j : Slot) (f : Biquad) : (s.setBq j f).lock = s.lock := rfl
@[simp] theorem State.setBq_oblock (j : Slot) (f : Biquad) : (s.setBq j f).oblock = s.oblock := rfl
@[simp] theorem State.setBq_nvWp (j : Slot) (f : Biquad) : (s.setBq j f).nvWp = s.nvWp := rfl
@[simp] theorem State.setBq_nvOptWp (j : Slot) (f : Biquad) : (s.setBq j f).nvOptWp = s.nvOptWp := rfl
@[simp] theorem State.setBq_nv (j : Slot) (f : Biquad) : (s.setBq j f).nv = s.nv := rfl
@[simp] theorem State.setBq_tgt (j : Slot) (f : Biquad) : (s.setBq j f).tgt = s.tgt := rfl
@[simp] theorem State.setBq_progress (j : Slot) (f : Biquad) : (s.setBq j f).progress = s.progress := rfl
@[simp] theorem State.setBq_fftLen (j : Slot) (f : Biquad) : (s.setBq j f).fftLen = s.fftLen := rfl
@[simp] theorem State.setBq_hannLen (j : Slot) (f : Biquad) : (s.setBq j f).hannLen = s.hannLen := rfl
@[simp] theorem State.setBq_gz (j : Slot) (f : Biquad) : (s.setBq j f).gz = s.gz := rfl
@[simp] theorem State.setBq_bq (j : Slot) (f : Biquad) : (s.setBq j f).bq = s.bq.set j.toNat f j.isLt := rfl
@[simp] theorem State.setBq_ema (j : Slot) (f : Biquad) : (s.setBq j f).ema = s.ema := rfl
@[simp] theorem State.setBq_notch (j : Slot) (f : Biquad) : (s.setBq j f).notch = s.notch := rfl
@[simp] theorem State.setBq_cb (j : Slot) (f : Biquad) : (s.setBq j f).cb = s.cb := rfl
@[simp] theorem State.setBq_ma (j : Slot) (f : Biquad) : (s.setBq j f).ma = s.ma := rfl
@[simp] theorem State.setBq_ring (j : Slot) (f : Biquad) : (s.setBq j f).ring = s.ring := rfl
@[simp] theorem State.setBq_xbuf (j : Slot) (f : Biquad) : (s.setBq j f).xbuf = s.xbuf := rfl
@[simp] theorem State.setBq_tab (j : Slot) (f : Biquad) : (s.setBq j f).tab = s.tab := rfl
@[simp] theorem State.setBq_hcoef (j : Slot) (f : Biquad) : (s.setBq j f).hcoef = s.hcoef := rfl
@[simp] theorem State.setBq_drawTape (j : Slot) (f : Biquad) : (s.setBq j f).drawTape = s.drawTape := rfl
@[simp] theorem State.setBq_drawCount (j : Slot) (f : Biquad) : (s.setBq j f).drawCount = s.drawCount := rfl
@[simp] theorem State.setBq_schedule (j : Slot) (f : Biquad) : (s.setBq j f).schedule = s.schedule := rfl
@[simp] theorem State.setBq_turnCount (j : Slot) (f : Biquad) : (s.setBq j f).turnCount = s.turnCount := rfl
@[simp] theorem State.setBq_hostProgram (j : Slot) (f : Biquad) : (s.setBq j f).hostProgram = s.hostProgram := rfl
@[simp] theorem State.setBq_hostPos (j : Slot) (f : Biquad) : (s.setBq j f).hostPos = s.hostPos := rfl
@[simp] theorem State.setBq_hostData (j : Slot) (f : Biquad) : (s.setBq j f).hostData = s.hostData := rfl

@[simp] theorem State.setEma_cfg (j : Slot) (f : Ema) : (s.setEma j f).cfg = s.cfg := rfl
@[simp] theorem State.setEma_cmd (j : Slot) (f : Ema) : (s.setEma j f).cmd = s.cmd := rfl
@[simp] theorem State.setEma_rc (j : Slot) (f : Ema) : (s.setEma j f).rc = s.rc := rfl
@[simp] theorem State.setEma_args (j : Slot) (f : Ema) : (s.setEma j f).args = s.args := rfl
@[simp] theorem State.setEma_res (j : Slot) (f : Ema) : (s.setEma j f).res = s.res := rfl
@[simp] theorem State.setEma_acqC (j : Slot) (f : Ema) : (s.setEma j f).acqC = s.acqC := rfl
@[simp] theorem State.setEma_acqS (j : Slot) (f : Ema) : (s.setEma j f).acqS = s.acqS := rfl
@[simp] theorem State.setEma_w32 (j : Slot) (f : Ema) : (s.setEma j f).w32 = s.w32 := rfl
@[simp] theorem State.setEma_armed (j : Slot) (f : Ema) : (s.setEma j f).armed = s.armed := rfl
@[simp] theorem State.setEma_active (j : Slot) (f : Ema) : (s.setEma j f).active = s.active := rfl
@[simp] theorem State.setEma_last (j : Slot) (f : Ema) : (s.setEma j f).last = s.last := rfl
@[simp] theorem State.setEma_wptr (j : Slot) (f : Ema) : (s.setEma j f).wptr = s.wptr := rfl
@[simp] theorem State.setEma_fifo (j : Slot) (f : Ema) : (s.setEma j f).fifo = s.fifo := rfl
@[simp] theorem State.setEma_crc4Poly (j : Slot) (f : Ema) : (s.setEma j f).crc4Poly = s.crc4Poly := rfl
@[simp] theorem State.setEma_crc4Init (j : Slot) (f : Ema) : (s.setEma j f).crc4Init = s.crc4Init := rfl
@[simp] theorem State.setEma_crc8Poly (j : Slot) (f : Ema) : (s.setEma j f).crc8Poly = s.crc8Poly := rfl
@[simp] theorem State.setEma_crc8Init (j : Slot) (f : Ema) : (s.setEma j f).crc8Init = s.crc8Init := rfl
@[simp] theorem State.setEma_lock (j : Slot) (f : Ema) : (s.setEma j f).lock = s.lock := rfl
@[simp] theorem State.setEma_oblock (j : Slot) (f : Ema) : (s.setEma j f).oblock = s.oblock := rfl
@[simp] theorem State.setEma_nvWp (j : Slot) (f : Ema) : (s.setEma j f).nvWp = s.nvWp := rfl
@[simp] theorem State.setEma_nvOptWp (j : Slot) (f : Ema) : (s.setEma j f).nvOptWp = s.nvOptWp := rfl
@[simp] theorem State.setEma_nv (j : Slot) (f : Ema) : (s.setEma j f).nv = s.nv := rfl
@[simp] theorem State.setEma_tgt (j : Slot) (f : Ema) : (s.setEma j f).tgt = s.tgt := rfl
@[simp] theorem State.setEma_progress (j : Slot) (f : Ema) : (s.setEma j f).progress = s.progress := rfl
@[simp] theorem State.setEma_fftLen (j : Slot) (f : Ema) : (s.setEma j f).fftLen = s.fftLen := rfl
@[simp] theorem State.setEma_hannLen (j : Slot) (f : Ema) : (s.setEma j f).hannLen = s.hannLen := rfl
@[simp] theorem State.setEma_gz (j : Slot) (f : Ema) : (s.setEma j f).gz = s.gz := rfl
@[simp] theorem State.setEma_bq (j : Slot) (f : Ema) : (s.setEma j f).bq = s.bq := rfl
@[simp] theorem State.setEma_ema (j : Slot) (f : Ema) : (s.setEma j f).ema = s.ema.set j.toNat f j.isLt := rfl
@[simp] theorem State.setEma_notch (j : Slot) (f : Ema) : (s.setEma j f).notch = s.notch := rfl
@[simp] theorem State.setEma_cb (j : Slot) (f : Ema) : (s.setEma j f).cb = s.cb := rfl
@[simp] theorem State.setEma_ma (j : Slot) (f : Ema) : (s.setEma j f).ma = s.ma := rfl
@[simp] theorem State.setEma_ring (j : Slot) (f : Ema) : (s.setEma j f).ring = s.ring := rfl
@[simp] theorem State.setEma_xbuf (j : Slot) (f : Ema) : (s.setEma j f).xbuf = s.xbuf := rfl
@[simp] theorem State.setEma_tab (j : Slot) (f : Ema) : (s.setEma j f).tab = s.tab := rfl
@[simp] theorem State.setEma_hcoef (j : Slot) (f : Ema) : (s.setEma j f).hcoef = s.hcoef := rfl
@[simp] theorem State.setEma_drawTape (j : Slot) (f : Ema) : (s.setEma j f).drawTape = s.drawTape := rfl
@[simp] theorem State.setEma_drawCount (j : Slot) (f : Ema) : (s.setEma j f).drawCount = s.drawCount := rfl
@[simp] theorem State.setEma_schedule (j : Slot) (f : Ema) : (s.setEma j f).schedule = s.schedule := rfl
@[simp] theorem State.setEma_turnCount (j : Slot) (f : Ema) : (s.setEma j f).turnCount = s.turnCount := rfl
@[simp] theorem State.setEma_hostProgram (j : Slot) (f : Ema) : (s.setEma j f).hostProgram = s.hostProgram := rfl
@[simp] theorem State.setEma_hostPos (j : Slot) (f : Ema) : (s.setEma j f).hostPos = s.hostPos := rfl
@[simp] theorem State.setEma_hostData (j : Slot) (f : Ema) : (s.setEma j f).hostData = s.hostData := rfl

@[simp] theorem State.setNotch_cfg (j : Slot) (f : Notch) : (s.setNotch j f).cfg = s.cfg := rfl
@[simp] theorem State.setNotch_cmd (j : Slot) (f : Notch) : (s.setNotch j f).cmd = s.cmd := rfl
@[simp] theorem State.setNotch_rc (j : Slot) (f : Notch) : (s.setNotch j f).rc = s.rc := rfl
@[simp] theorem State.setNotch_args (j : Slot) (f : Notch) : (s.setNotch j f).args = s.args := rfl
@[simp] theorem State.setNotch_res (j : Slot) (f : Notch) : (s.setNotch j f).res = s.res := rfl
@[simp] theorem State.setNotch_acqC (j : Slot) (f : Notch) : (s.setNotch j f).acqC = s.acqC := rfl
@[simp] theorem State.setNotch_acqS (j : Slot) (f : Notch) : (s.setNotch j f).acqS = s.acqS := rfl
@[simp] theorem State.setNotch_w32 (j : Slot) (f : Notch) : (s.setNotch j f).w32 = s.w32 := rfl
@[simp] theorem State.setNotch_armed (j : Slot) (f : Notch) : (s.setNotch j f).armed = s.armed := rfl
@[simp] theorem State.setNotch_active (j : Slot) (f : Notch) : (s.setNotch j f).active = s.active := rfl
@[simp] theorem State.setNotch_last (j : Slot) (f : Notch) : (s.setNotch j f).last = s.last := rfl
@[simp] theorem State.setNotch_wptr (j : Slot) (f : Notch) : (s.setNotch j f).wptr = s.wptr := rfl
@[simp] theorem State.setNotch_fifo (j : Slot) (f : Notch) : (s.setNotch j f).fifo = s.fifo := rfl
@[simp] theorem State.setNotch_crc4Poly (j : Slot) (f : Notch) : (s.setNotch j f).crc4Poly = s.crc4Poly := rfl
@[simp] theorem State.setNotch_crc4Init (j : Slot) (f : Notch) : (s.setNotch j f).crc4Init = s.crc4Init := rfl
@[simp] theorem State.setNotch_crc8Poly (j : Slot) (f : Notch) : (s.setNotch j f).crc8Poly = s.crc8Poly := rfl
@[simp] theorem State.setNotch_crc8Init (j : Slot) (f : Notch) : (s.setNotch j f).crc8Init = s.crc8Init := rfl
@[simp] theorem State.setNotch_lock (j : Slot) (f : Notch) : (s.setNotch j f).lock = s.lock := rfl
@[simp] theorem State.setNotch_oblock (j : Slot) (f : Notch) : (s.setNotch j f).oblock = s.oblock := rfl
@[simp] theorem State.setNotch_nvWp (j : Slot) (f : Notch) : (s.setNotch j f).nvWp = s.nvWp := rfl
@[simp] theorem State.setNotch_nvOptWp (j : Slot) (f : Notch) : (s.setNotch j f).nvOptWp = s.nvOptWp := rfl
@[simp] theorem State.setNotch_nv (j : Slot) (f : Notch) : (s.setNotch j f).nv = s.nv := rfl
@[simp] theorem State.setNotch_tgt (j : Slot) (f : Notch) : (s.setNotch j f).tgt = s.tgt := rfl
@[simp] theorem State.setNotch_progress (j : Slot) (f : Notch) : (s.setNotch j f).progress = s.progress := rfl
@[simp] theorem State.setNotch_fftLen (j : Slot) (f : Notch) : (s.setNotch j f).fftLen = s.fftLen := rfl
@[simp] theorem State.setNotch_hannLen (j : Slot) (f : Notch) : (s.setNotch j f).hannLen = s.hannLen := rfl
@[simp] theorem State.setNotch_gz (j : Slot) (f : Notch) : (s.setNotch j f).gz = s.gz := rfl
@[simp] theorem State.setNotch_bq (j : Slot) (f : Notch) : (s.setNotch j f).bq = s.bq := rfl
@[simp] theorem State.setNotch_ema (j : Slot) (f : Notch) : (s.setNotch j f).ema = s.ema := rfl
@[simp] theorem State.setNotch_notch (j : Slot) (f : Notch) : (s.setNotch j f).notch = s.notch.set j.toNat f j.isLt := rfl
@[simp] theorem State.setNotch_cb (j : Slot) (f : Notch) : (s.setNotch j f).cb = s.cb := rfl
@[simp] theorem State.setNotch_ma (j : Slot) (f : Notch) : (s.setNotch j f).ma = s.ma := rfl
@[simp] theorem State.setNotch_ring (j : Slot) (f : Notch) : (s.setNotch j f).ring = s.ring := rfl
@[simp] theorem State.setNotch_xbuf (j : Slot) (f : Notch) : (s.setNotch j f).xbuf = s.xbuf := rfl
@[simp] theorem State.setNotch_tab (j : Slot) (f : Notch) : (s.setNotch j f).tab = s.tab := rfl
@[simp] theorem State.setNotch_hcoef (j : Slot) (f : Notch) : (s.setNotch j f).hcoef = s.hcoef := rfl
@[simp] theorem State.setNotch_drawTape (j : Slot) (f : Notch) : (s.setNotch j f).drawTape = s.drawTape := rfl
@[simp] theorem State.setNotch_drawCount (j : Slot) (f : Notch) : (s.setNotch j f).drawCount = s.drawCount := rfl
@[simp] theorem State.setNotch_schedule (j : Slot) (f : Notch) : (s.setNotch j f).schedule = s.schedule := rfl
@[simp] theorem State.setNotch_turnCount (j : Slot) (f : Notch) : (s.setNotch j f).turnCount = s.turnCount := rfl
@[simp] theorem State.setNotch_hostProgram (j : Slot) (f : Notch) : (s.setNotch j f).hostProgram = s.hostProgram := rfl
@[simp] theorem State.setNotch_hostPos (j : Slot) (f : Notch) : (s.setNotch j f).hostPos = s.hostPos := rfl
@[simp] theorem State.setNotch_hostData (j : Slot) (f : Notch) : (s.setNotch j f).hostData = s.hostData := rfl

@[simp] theorem State.setCb_cfg (j : Slot) (b : CircBuf) : (s.setCb j b).cfg = s.cfg := rfl
@[simp] theorem State.setCb_cmd (j : Slot) (b : CircBuf) : (s.setCb j b).cmd = s.cmd := rfl
@[simp] theorem State.setCb_rc (j : Slot) (b : CircBuf) : (s.setCb j b).rc = s.rc := rfl
@[simp] theorem State.setCb_args (j : Slot) (b : CircBuf) : (s.setCb j b).args = s.args := rfl
@[simp] theorem State.setCb_res (j : Slot) (b : CircBuf) : (s.setCb j b).res = s.res := rfl
@[simp] theorem State.setCb_acqC (j : Slot) (b : CircBuf) : (s.setCb j b).acqC = s.acqC := rfl
@[simp] theorem State.setCb_acqS (j : Slot) (b : CircBuf) : (s.setCb j b).acqS = s.acqS := rfl
@[simp] theorem State.setCb_w32 (j : Slot) (b : CircBuf) : (s.setCb j b).w32 = s.w32 := rfl
@[simp] theorem State.setCb_armed (j : Slot) (b : CircBuf) : (s.setCb j b).armed = s.armed := rfl
@[simp] theorem State.setCb_active (j : Slot) (b : CircBuf) : (s.setCb j b).active = s.active := rfl
@[simp] theorem State.setCb_last (j : Slot) (b : CircBuf) : (s.setCb j b).last = s.last := rfl
@[simp] theorem State.setCb_wptr (j : Slot) (b : CircBuf) : (s.setCb j b).wptr = s.wptr := rfl
@[simp] theorem State.setCb_fifo (j : Slot) (b : CircBuf) : (s.setCb j b).fifo = s.fifo := rfl
@[simp] theorem State.setCb_crc4Poly (j : Slot) (b : CircBuf) : (s.setCb j b).crc4Poly = s.crc4Poly := rfl
@[simp] theorem State.setCb_crc4Init (j : Slot) (b : CircBuf) : (s.setCb j b).crc4Init = s.crc4Init := rfl
@[simp] theorem State.setCb_crc8Poly (j : Slot) (b : CircBuf) : (s.setCb j b).crc8Poly = s.crc8Poly := rfl
@[simp] theorem State.setCb_crc8Init (j : Slot) (b : CircBuf) : (s.setCb j b).crc8Init = s.crc8Init := rfl
@[simp] theorem State.setCb_lock (j : Slot) (b : CircBuf) : (s.setCb j b).lock = s.lock := rfl
@[simp] theorem State.setCb_oblock (j : Slot) (b : CircBuf) : (s.setCb j b).oblock = s.oblock := rfl
@[simp] theorem State.setCb_nvWp (j : Slot) (b : CircBuf) : (s.setCb j b).nvWp = s.nvWp := rfl
@[simp] theorem State.setCb_nvOptWp (j : Slot) (b : CircBuf) : (s.setCb j b).nvOptWp = s.nvOptWp := rfl
@[simp] theorem State.setCb_nv (j : Slot) (b : CircBuf) : (s.setCb j b).nv = s.nv := rfl
@[simp] theorem State.setCb_tgt (j : Slot) (b : CircBuf) : (s.setCb j b).tgt = s.tgt := rfl
@[simp] theorem State.setCb_progress (j : Slot) (b : CircBuf) : (s.setCb j b).progress = s.progress := rfl
@[simp] theorem State.setCb_fftLen (j : Slot) (b : CircBuf) : (s.setCb j b).fftLen = s.fftLen := rfl
@[simp] theorem State.setCb_hannLen (j : Slot) (b : CircBuf) : (s.setCb j b).hannLen = s.hannLen := rfl
@[simp] theorem State.setCb_gz (j : Slot) (b : CircBuf) : (s.setCb j b).gz = s.gz := rfl
@[simp] theorem State.setCb_bq (j : Slot) (b : CircBuf) : (s.setCb j b).bq = s.bq := rfl
@[simp] theorem State.setCb_ema (j : Slot) (b : CircBuf) : (s.setCb j b).ema = s.ema := rfl
@[simp] theorem State.setCb_notch (j : Slot) (b : CircBuf) : (s.setCb j b).notch = s.notch := rfl
@[simp] theorem State.setCb_cb (j : Slot) (b : CircBuf) : (s.setCb j b).cb = s.cb.set j.toNat b j.isLt := rfl
@[simp] theorem State.setCb_ma (j : Slot) (b : CircBuf) : (s.setCb j b).ma = s.ma := rfl
@[simp] theorem State.setCb_ring (j : Slot) (b : CircBuf) : (s.setCb j b).ring = s.ring := rfl
@[simp] theorem State.setCb_xbuf (j : Slot) (b : CircBuf) : (s.setCb j b).xbuf = s.xbuf := rfl
@[simp] theorem State.setCb_tab (j : Slot) (b : CircBuf) : (s.setCb j b).tab = s.tab := rfl
@[simp] theorem State.setCb_hcoef (j : Slot) (b : CircBuf) : (s.setCb j b).hcoef = s.hcoef := rfl
@[simp] theorem State.setCb_drawTape (j : Slot) (b : CircBuf) : (s.setCb j b).drawTape = s.drawTape := rfl
@[simp] theorem State.setCb_drawCount (j : Slot) (b : CircBuf) : (s.setCb j b).drawCount = s.drawCount := rfl
@[simp] theorem State.setCb_schedule (j : Slot) (b : CircBuf) : (s.setCb j b).schedule = s.schedule := rfl
@[simp] theorem State.setCb_turnCount (j : Slot) (b : CircBuf) : (s.setCb j b).turnCount = s.turnCount := rfl
@[simp] theorem State.setCb_hostProgram (j : Slot) (b : CircBuf) : (s.setCb j b).hostProgram = s.hostProgram := rfl
@[simp] theorem State.setCb_hostPos (j : Slot) (b : CircBuf) : (s.setCb j b).hostPos = s.hostPos := rfl
@[simp] theorem State.setCb_hostData (j : Slot) (b : CircBuf) : (s.setCb j b).hostData = s.hostData := rfl

@[simp] theorem State.setMa_cfg (j : Slot) (m : MovAvg) : (s.setMa j m).cfg = s.cfg := rfl
@[simp] theorem State.setMa_cmd (j : Slot) (m : MovAvg) : (s.setMa j m).cmd = s.cmd := rfl
@[simp] theorem State.setMa_rc (j : Slot) (m : MovAvg) : (s.setMa j m).rc = s.rc := rfl
@[simp] theorem State.setMa_args (j : Slot) (m : MovAvg) : (s.setMa j m).args = s.args := rfl
@[simp] theorem State.setMa_res (j : Slot) (m : MovAvg) : (s.setMa j m).res = s.res := rfl
@[simp] theorem State.setMa_acqC (j : Slot) (m : MovAvg) : (s.setMa j m).acqC = s.acqC := rfl
@[simp] theorem State.setMa_acqS (j : Slot) (m : MovAvg) : (s.setMa j m).acqS = s.acqS := rfl
@[simp] theorem State.setMa_w32 (j : Slot) (m : MovAvg) : (s.setMa j m).w32 = s.w32 := rfl
@[simp] theorem State.setMa_armed (j : Slot) (m : MovAvg) : (s.setMa j m).armed = s.armed := rfl
@[simp] theorem State.setMa_active (j : Slot) (m : MovAvg) : (s.setMa j m).active = s.active := rfl
@[simp] theorem State.setMa_last (j : Slot) (m : MovAvg) : (s.setMa j m).last = s.last := rfl
@[simp] theorem State.setMa_wptr (j : Slot) (m : MovAvg) : (s.setMa j m).wptr = s.wptr := rfl
@[simp] theorem State.setMa_fifo (j : Slot) (m : MovAvg) : (s.setMa j m).fifo = s.fifo := rfl
@[simp] theorem State.setMa_crc4Poly (j : Slot) (m : MovAvg) : (s.setMa j m).crc4Poly = s.crc4Poly := rfl
@[simp] theorem State.setMa_crc4Init (j : Slot) (m : MovAvg) : (s.setMa j m).crc4Init = s.crc4Init := rfl
@[simp] theorem State.setMa_crc8Poly (j : Slot) (m : MovAvg) : (s.setMa j m).crc8Poly = s.crc8Poly := rfl
@[simp] theorem State.setMa_crc8Init (j : Slot) (m : MovAvg) : (s.setMa j m).crc8Init = s.crc8Init := rfl
@[simp] theorem State.setMa_lock (j : Slot) (m : MovAvg) : (s.setMa j m).lock = s.lock := rfl
@[simp] theorem State.setMa_oblock (j : Slot) (m : MovAvg) : (s.setMa j m).oblock = s.oblock := rfl
@[simp] theorem State.setMa_nvWp (j : Slot) (m : MovAvg) : (s.setMa j m).nvWp = s.nvWp := rfl
@[simp] theorem State.setMa_nvOptWp (j : Slot) (m : MovAvg) : (s.setMa j m).nvOptWp = s.nvOptWp := rfl
@[simp] theorem State.setMa_nv (j : Slot) (m : MovAvg) : (s.setMa j m).nv = s.nv := rfl
@[simp] theorem State.setMa_tgt (j : Slot) (m : MovAvg) : (s.setMa j m).tgt = s.tgt := rfl
@[simp] theorem State.setMa_progress (j : Slot) (m : MovAvg) : (s.setMa j m).progress = s.progress := rfl
@[simp] theorem State.setMa_fftLen (j : Slot) (m : MovAvg) : (s.setMa j m).fftLen = s.fftLen := rfl
@[simp] theorem State.setMa_hannLen (j : Slot) (m : MovAvg) : (s.setMa j m).hannLen = s.hannLen := rfl
@[simp] theorem State.setMa_gz (j : Slot) (m : MovAvg) : (s.setMa j m).gz = s.gz := rfl
@[simp] theorem State.setMa_bq (j : Slot) (m : MovAvg) : (s.setMa j m).bq = s.bq := rfl
@[simp] theorem State.setMa_ema (j : Slot) (m : MovAvg) : (s.setMa j m).ema = s.ema := rfl
@[simp] theorem State.setMa_notch (j : Slot) (m : MovAvg) : (s.setMa j m).notch = s.notch := rfl
@[simp] theorem State.setMa_cb (j : Slot) (m : MovAvg) : (s.setMa j m).cb = s.cb := rfl
@[simp] theorem State.setMa_ma (j : Slot) (m : MovAvg) : (s.setMa j m).ma = s.ma.set j.toNat m j.isLt := rfl
@[simp] theorem State.setMa_ring (j : Slot) (m : MovAvg) : (s.setMa j m).ring = s.ring := rfl
@[simp] theorem State.setMa_xbuf (j : Slot) (m : MovAvg) : (s.setMa j m).xbuf = s.xbuf := rfl
@[simp] theorem State.setMa_tab (j : Slot) (m : MovAvg) : (s.setMa j m).tab = s.tab := rfl
@[simp] theorem State.setMa_hcoef (j : Slot) (m : MovAvg) : (s.setMa j m).hcoef = s.hcoef := rfl
@[simp] theorem State.setMa_drawTape (j : Slot) (m : MovAvg) : (s.setMa j m).drawTape = s.drawTape := rfl
@[simp] theorem State.setMa_drawCount (j : Slot) (m : MovAvg) : (s.setMa j m).drawCount = s.drawCount := rfl
@[simp] theorem State.setMa_schedule (j : Slot) (m : MovAvg) : (s.setMa j m).schedule = s.schedule := rfl
@[simp] theorem State.setMa_turnCount (j : Slot) (m : MovAvg) : (s.setMa j m).turnCount = s.turnCount := rfl
@[simp] theorem State.setMa_hostProgram (j : Slot) (m : MovAvg) : (s.setMa j m).hostProgram = s.hostProgram := rfl
@[simp] theorem State.setMa_hostPos (j : Slot) (m : MovAvg) : (s.setMa j m).hostPos = s.hostPos := rfl
@[simp] theorem State.setMa_hostData (j : Slot) (m : MovAvg) : (s.setMa j m).hostData = s.hostData := rfl

@[simp] theorem State.clearTgt_cfg : (s.clearTgt).cfg = s.cfg := rfl
@[simp] theorem State.clearTgt_cmd : (s.clearTgt).cmd = s.cmd := rfl
@[simp] theorem State.clearTgt_rc : (s.clearTgt).rc = s.rc := rfl
@[simp] theorem State.clearTgt_args : (s.clearTgt).args = s.args := rfl
@[simp] theorem State.clearTgt_res : (s.clearTgt).res = s.res := rfl
@[simp] theorem State.clearTgt_acqC : (s.clearTgt).acqC = s.acqC := rfl
@[simp] theorem State.clearTgt_acqS : (s.clearTgt).acqS = s.acqS := rfl
@[simp] theorem State.clearTgt_w32 : (s.clearTgt).w32 = s.w32 := rfl
@[simp] theorem State.clearTgt_armed : (s.clearTgt).armed = s.armed := rfl
@[simp] theorem State.clearTgt_active : (s.clearTgt).active = s.active := rfl
@[simp] theorem State.clearTgt_last : (s.clearTgt).last = s.last := rfl
@[simp] theorem State.clearTgt_wptr : (s.clearTgt).wptr = s.wptr := rfl
@[simp] theorem State.clearTgt_fifo : (s.clearTgt).fifo = s.fifo := rfl
@[simp] theorem State.clearTgt_crc4Poly : (s.clearTgt).crc4Poly = s.crc4Poly := rfl
@[simp] theorem State.clearTgt_crc4Init : (s.clearTgt).crc4Init = s.crc4Init := rfl
@[simp] theorem State.clearTgt_crc8Poly : (s.clearTgt).crc8Poly = s.crc8Poly := rfl
@[simp] theorem State.clearTgt_crc8Init : (s.clearTgt).crc8Init = s.crc8Init := rfl
@[simp] theorem State.clearTgt_lock : (s.clearTgt).lock = s.lock := rfl
@[simp] theorem State.clearTgt_oblock : (s.clearTgt).oblock = s.oblock := rfl
@[simp] theorem State.clearTgt_nvWp : (s.clearTgt).nvWp = s.nvWp := rfl
@[simp] theorem State.clearTgt_nvOptWp : (s.clearTgt).nvOptWp = s.nvOptWp := rfl
@[simp] theorem State.clearTgt_nv : (s.clearTgt).nv = s.nv := rfl
@[simp] theorem State.clearTgt_tgt : (s.clearTgt).tgt = TornTarget.none := rfl
@[simp] theorem State.clearTgt_progress : (s.clearTgt).progress = s.progress := rfl
@[simp] theorem State.clearTgt_fftLen : (s.clearTgt).fftLen = s.fftLen := rfl
@[simp] theorem State.clearTgt_hannLen : (s.clearTgt).hannLen = s.hannLen := rfl
@[simp] theorem State.clearTgt_gz : (s.clearTgt).gz = s.gz := rfl
@[simp] theorem State.clearTgt_bq : (s.clearTgt).bq = s.bq := rfl
@[simp] theorem State.clearTgt_ema : (s.clearTgt).ema = s.ema := rfl
@[simp] theorem State.clearTgt_notch : (s.clearTgt).notch = s.notch := rfl
@[simp] theorem State.clearTgt_cb : (s.clearTgt).cb = s.cb := rfl
@[simp] theorem State.clearTgt_ma : (s.clearTgt).ma = s.ma := rfl
@[simp] theorem State.clearTgt_ring : (s.clearTgt).ring = s.ring := rfl
@[simp] theorem State.clearTgt_xbuf : (s.clearTgt).xbuf = s.xbuf := rfl
@[simp] theorem State.clearTgt_tab : (s.clearTgt).tab = s.tab := rfl
@[simp] theorem State.clearTgt_hcoef : (s.clearTgt).hcoef = s.hcoef := rfl
@[simp] theorem State.clearTgt_drawTape : (s.clearTgt).drawTape = s.drawTape := rfl
@[simp] theorem State.clearTgt_drawCount : (s.clearTgt).drawCount = s.drawCount := rfl
@[simp] theorem State.clearTgt_schedule : (s.clearTgt).schedule = s.schedule := rfl
@[simp] theorem State.clearTgt_turnCount : (s.clearTgt).turnCount = s.turnCount := rfl
@[simp] theorem State.clearTgt_hostProgram : (s.clearTgt).hostProgram = s.hostProgram := rfl
@[simp] theorem State.clearTgt_hostPos : (s.clearTgt).hostPos = s.hostPos := rfl
@[simp] theorem State.clearTgt_hostData : (s.clearTgt).hostData = s.hostData := rfl

@[simp] theorem State.relock_cfg : (s.relock).cfg = s.cfg := rfl
@[simp] theorem State.relock_cmd : (s.relock).cmd = s.cmd := rfl
@[simp] theorem State.relock_rc : (s.relock).rc = s.rc := rfl
@[simp] theorem State.relock_args : (s.relock).args = s.args := rfl
@[simp] theorem State.relock_res : (s.relock).res = s.res := rfl
@[simp] theorem State.relock_acqC : (s.relock).acqC = s.acqC := rfl
@[simp] theorem State.relock_acqS : (s.relock).acqS = s.acqS := rfl
@[simp] theorem State.relock_w32 : (s.relock).w32 = s.w32 := rfl
@[simp] theorem State.relock_armed : (s.relock).armed = s.armed := rfl
@[simp] theorem State.relock_active : (s.relock).active = s.active := rfl
@[simp] theorem State.relock_last : (s.relock).last = s.last := rfl
@[simp] theorem State.relock_wptr : (s.relock).wptr = s.wptr := rfl
@[simp] theorem State.relock_fifo : (s.relock).fifo = s.fifo := rfl
@[simp] theorem State.relock_crc4Poly : (s.relock).crc4Poly = s.crc4Poly := rfl
@[simp] theorem State.relock_crc4Init : (s.relock).crc4Init = s.crc4Init := rfl
@[simp] theorem State.relock_crc8Poly : (s.relock).crc8Poly = s.crc8Poly := rfl
@[simp] theorem State.relock_crc8Init : (s.relock).crc8Init = s.crc8Init := rfl
@[simp] theorem State.relock_lock : (s.relock).lock = true := rfl
@[simp] theorem State.relock_oblock : (s.relock).oblock = s.oblock := rfl
@[simp] theorem State.relock_nvWp : (s.relock).nvWp = s.nvWp := rfl
@[simp] theorem State.relock_nvOptWp : (s.relock).nvOptWp = s.nvOptWp := rfl
@[simp] theorem State.relock_nv : (s.relock).nv = s.nv := rfl
@[simp] theorem State.relock_tgt : (s.relock).tgt = s.tgt := rfl
@[simp] theorem State.relock_progress : (s.relock).progress = s.progress := rfl
@[simp] theorem State.relock_fftLen : (s.relock).fftLen = s.fftLen := rfl
@[simp] theorem State.relock_hannLen : (s.relock).hannLen = s.hannLen := rfl
@[simp] theorem State.relock_gz : (s.relock).gz = s.gz := rfl
@[simp] theorem State.relock_bq : (s.relock).bq = s.bq := rfl
@[simp] theorem State.relock_ema : (s.relock).ema = s.ema := rfl
@[simp] theorem State.relock_notch : (s.relock).notch = s.notch := rfl
@[simp] theorem State.relock_cb : (s.relock).cb = s.cb := rfl
@[simp] theorem State.relock_ma : (s.relock).ma = s.ma := rfl
@[simp] theorem State.relock_ring : (s.relock).ring = s.ring := rfl
@[simp] theorem State.relock_xbuf : (s.relock).xbuf = s.xbuf := rfl
@[simp] theorem State.relock_tab : (s.relock).tab = s.tab := rfl
@[simp] theorem State.relock_hcoef : (s.relock).hcoef = s.hcoef := rfl
@[simp] theorem State.relock_drawTape : (s.relock).drawTape = s.drawTape := rfl
@[simp] theorem State.relock_drawCount : (s.relock).drawCount = s.drawCount := rfl
@[simp] theorem State.relock_schedule : (s.relock).schedule = s.schedule := rfl
@[simp] theorem State.relock_turnCount : (s.relock).turnCount = s.turnCount := rfl
@[simp] theorem State.relock_hostProgram : (s.relock).hostProgram = s.hostProgram := rfl
@[simp] theorem State.relock_hostPos : (s.relock).hostPos = s.hostPos := rfl
@[simp] theorem State.relock_hostData : (s.relock).hostData = s.hostData := rfl

@[simp] theorem State.nvWriteBegin_cfg (f0 : Bool) (a n xo : Word) (p : List Byte) : (s.nvWriteBegin f0 a n xo p).cfg = s.cfg := rfl
@[simp] theorem State.nvWriteBegin_cmd (f0 : Bool) (a n xo : Word) (p : List Byte) : (s.nvWriteBegin f0 a n xo p).cmd = s.cmd := rfl
@[simp] theorem State.nvWriteBegin_rc (f0 : Bool) (a n xo : Word) (p : List Byte) : (s.nvWriteBegin f0 a n xo p).rc = s.rc := rfl
@[simp] theorem State.nvWriteBegin_args (f0 : Bool) (a n xo : Word) (p : List Byte) : (s.nvWriteBegin f0 a n xo p).args = s.args := rfl
@[simp] theorem State.nvWriteBegin_res (f0 : Bool) (a n xo : Word) (p : List Byte) : (s.nvWriteBegin f0 a n xo p).res = s.res := rfl
@[simp] theorem State.nvWriteBegin_acqC (f0 : Bool) (a n xo : Word) (p : List Byte) : (s.nvWriteBegin f0 a n xo p).acqC = s.acqC := rfl
@[simp] theorem State.nvWriteBegin_acqS (f0 : Bool) (a n xo : Word) (p : List Byte) : (s.nvWriteBegin f0 a n xo p).acqS = s.acqS := rfl
@[simp] theorem State.nvWriteBegin_w32 (f0 : Bool) (a n xo : Word) (p : List Byte) : (s.nvWriteBegin f0 a n xo p).w32 = s.w32 := rfl
@[simp] theorem State.nvWriteBegin_armed (f0 : Bool) (a n xo : Word) (p : List Byte) : (s.nvWriteBegin f0 a n xo p).armed = s.armed := rfl
@[simp] theorem State.nvWriteBegin_active (f0 : Bool) (a n xo : Word) (p : List Byte) : (s.nvWriteBegin f0 a n xo p).active = s.active := rfl
@[simp] theorem State.nvWriteBegin_last (f0 : Bool) (a n xo : Word) (p : List Byte) : (s.nvWriteBegin f0 a n xo p).last = s.last := rfl
@[simp] theorem State.nvWriteBegin_wptr (f0 : Bool) (a n xo : Word) (p : List Byte) : (s.nvWriteBegin f0 a n xo p).wptr = s.wptr := rfl
@[simp] theorem State.nvWriteBegin_fifo (f0 : Bool) (a n xo : Word) (p : List Byte) : (s.nvWriteBegin f0 a n xo p).fifo = s.fifo := rfl
@[simp] theorem State.nvWriteBegin_crc4Poly (f0 : Bool) (a n xo : Word) (p : List Byte) : (s.nvWriteBegin f0 a n xo p).crc4Poly = s.crc4Poly := rfl
@[simp] theorem State.nvWriteBegin_crc4Init (f0 : Bool) (a n xo : Word) (p : List Byte) : (s.nvWriteBegin f0 a n xo p).crc4Init = s.crc4Init := rfl
@[simp] theorem State.nvWriteBegin_crc8Poly (f0 : Bool) (a n xo : Word) (p : List Byte) : (s.nvWriteBegin f0 a n xo p).crc8Poly = s.crc8Poly := rfl
@[simp] theorem State.nvWriteBegin_crc8Init (f0 : Bool) (a n xo : Word) (p : List Byte) : (s.nvWriteBegin f0 a n xo p).crc8Init = s.crc8Init := rfl
@[simp] theorem State.nvWriteBegin_lock (f0 : Bool) (a n xo : Word) (p : List Byte) : (s.nvWriteBegin f0 a n xo p).lock = false := rfl
@[simp] theorem State.nvWriteBegin_oblock (f0 : Bool) (a n xo : Word) (p : List Byte) : (s.nvWriteBegin f0 a n xo p).oblock = s.oblock := rfl
@[simp] theorem State.nvWriteBegin_nvWp (f0 : Bool) (a n xo : Word) (p : List Byte) : (s.nvWriteBegin f0 a n xo p).nvWp = s.nvWp := rfl
@[simp] theorem State.nvWriteBegin_nvOptWp (f0 : Bool) (a n xo : Word) (p : List Byte) : (s.nvWriteBegin f0 a n xo p).nvOptWp = s.nvOptWp := rfl
@[simp] theorem State.nvWriteBegin_nv (f0 : Bool) (a n xo : Word) (p : List Byte) : (s.nvWriteBegin f0 a n xo p).nv = s.nv := rfl
@[simp] theorem State.nvWriteBegin_tgt (f0 : Bool) (a n xo : Word) (p : List Byte) : (s.nvWriteBegin f0 a n xo p).tgt = s.tgt := rfl
@[simp] theorem State.nvWriteBegin_progress (f0 : Bool) (a n xo : Word) (p : List Byte) : (s.nvWriteBegin f0 a n xo p).progress = some ⟨.nvWrite f0 a n xo p, 1⟩ := rfl
@[simp] theorem State.nvWriteBegin_fftLen (f0 : Bool) (a n xo : Word) (p : List Byte) : (s.nvWriteBegin f0 a n xo p).fftLen = s.fftLen := rfl
@[simp] theorem State.nvWriteBegin_hannLen (f0 : Bool) (a n xo : Word) (p : List Byte) : (s.nvWriteBegin f0 a n xo p).hannLen = s.hannLen := rfl
@[simp] theorem State.nvWriteBegin_gz (f0 : Bool) (a n xo : Word) (p : List Byte) : (s.nvWriteBegin f0 a n xo p).gz = s.gz := rfl
@[simp] theorem State.nvWriteBegin_bq (f0 : Bool) (a n xo : Word) (p : List Byte) : (s.nvWriteBegin f0 a n xo p).bq = s.bq := rfl
@[simp] theorem State.nvWriteBegin_ema (f0 : Bool) (a n xo : Word) (p : List Byte) : (s.nvWriteBegin f0 a n xo p).ema = s.ema := rfl
@[simp] theorem State.nvWriteBegin_notch (f0 : Bool) (a n xo : Word) (p : List Byte) : (s.nvWriteBegin f0 a n xo p).notch = s.notch := rfl
@[simp] theorem State.nvWriteBegin_cb (f0 : Bool) (a n xo : Word) (p : List Byte) : (s.nvWriteBegin f0 a n xo p).cb = s.cb := rfl
@[simp] theorem State.nvWriteBegin_ma (f0 : Bool) (a n xo : Word) (p : List Byte) : (s.nvWriteBegin f0 a n xo p).ma = s.ma := rfl
@[simp] theorem State.nvWriteBegin_ring (f0 : Bool) (a n xo : Word) (p : List Byte) : (s.nvWriteBegin f0 a n xo p).ring = s.ring := rfl
@[simp] theorem State.nvWriteBegin_xbuf (f0 : Bool) (a n xo : Word) (p : List Byte) : (s.nvWriteBegin f0 a n xo p).xbuf = s.xbuf := rfl
@[simp] theorem State.nvWriteBegin_tab (f0 : Bool) (a n xo : Word) (p : List Byte) : (s.nvWriteBegin f0 a n xo p).tab = s.tab := rfl
@[simp] theorem State.nvWriteBegin_hcoef (f0 : Bool) (a n xo : Word) (p : List Byte) : (s.nvWriteBegin f0 a n xo p).hcoef = s.hcoef := rfl
@[simp] theorem State.nvWriteBegin_drawTape (f0 : Bool) (a n xo : Word) (p : List Byte) : (s.nvWriteBegin f0 a n xo p).drawTape = s.drawTape := rfl
@[simp] theorem State.nvWriteBegin_drawCount (f0 : Bool) (a n xo : Word) (p : List Byte) : (s.nvWriteBegin f0 a n xo p).drawCount = s.drawCount := rfl
@[simp] theorem State.nvWriteBegin_schedule (f0 : Bool) (a n xo : Word) (p : List Byte) : (s.nvWriteBegin f0 a n xo p).schedule = s.schedule := rfl
@[simp] theorem State.nvWriteBegin_turnCount (f0 : Bool) (a n xo : Word) (p : List Byte) : (s.nvWriteBegin f0 a n xo p).turnCount = s.turnCount := rfl
@[simp] theorem State.nvWriteBegin_hostProgram (f0 : Bool) (a n xo : Word) (p : List Byte) : (s.nvWriteBegin f0 a n xo p).hostProgram = s.hostProgram := rfl
@[simp] theorem State.nvWriteBegin_hostPos (f0 : Bool) (a n xo : Word) (p : List Byte) : (s.nvWriteBegin f0 a n xo p).hostPos = s.hostPos := rfl
@[simp] theorem State.nvWriteBegin_hostData (f0 : Bool) (a n xo : Word) (p : List Byte) : (s.nvWriteBegin f0 a n xo p).hostData = s.hostData := rfl

@[simp] theorem State.setOptWp_cfg (v : Word) : (s.setOptWp v).cfg = s.cfg := rfl
@[simp] theorem State.setOptWp_cmd (v : Word) : (s.setOptWp v).cmd = s.cmd := rfl
@[simp] theorem State.setOptWp_rc (v : Word) : (s.setOptWp v).rc = s.rc := rfl
@[simp] theorem State.setOptWp_args (v : Word) : (s.setOptWp v).args = s.args := rfl
@[simp] theorem State.setOptWp_res (v : Word) : (s.setOptWp v).res = s.res := rfl
@[simp] theorem State.setOptWp_acqC (v : Word) : (s.setOptWp v).acqC = s.acqC := rfl
@[simp] theorem State.setOptWp_acqS (v : Word) : (s.setOptWp v).acqS = s.acqS := rfl
@[simp] theorem State.setOptWp_w32 (v : Word) : (s.setOptWp v).w32 = s.w32 := rfl
@[simp] theorem State.setOptWp_armed (v : Word) : (s.setOptWp v).armed = s.armed := rfl
@[simp] theorem State.setOptWp_active (v : Word) : (s.setOptWp v).active = s.active := rfl
@[simp] theorem State.setOptWp_last (v : Word) : (s.setOptWp v).last = s.last := rfl
@[simp] theorem State.setOptWp_wptr (v : Word) : (s.setOptWp v).wptr = s.wptr := rfl
@[simp] theorem State.setOptWp_fifo (v : Word) : (s.setOptWp v).fifo = s.fifo := rfl
@[simp] theorem State.setOptWp_crc4Poly (v : Word) : (s.setOptWp v).crc4Poly = s.crc4Poly := rfl
@[simp] theorem State.setOptWp_crc4Init (v : Word) : (s.setOptWp v).crc4Init = s.crc4Init := rfl
@[simp] theorem State.setOptWp_crc8Poly (v : Word) : (s.setOptWp v).crc8Poly = s.crc8Poly := rfl
@[simp] theorem State.setOptWp_crc8Init (v : Word) : (s.setOptWp v).crc8Init = s.crc8Init := rfl
@[simp] theorem State.setOptWp_lock (v : Word) : (s.setOptWp v).lock = s.lock := rfl
@[simp] theorem State.setOptWp_oblock (v : Word) : (s.setOptWp v).oblock = s.oblock := rfl
@[simp] theorem State.setOptWp_nvWp (v : Word) : (s.setOptWp v).nvWp = s.nvWp := rfl
@[simp] theorem State.setOptWp_nvOptWp (v : Word) : (s.setOptWp v).nvOptWp = v := rfl
@[simp] theorem State.setOptWp_nv (v : Word) : (s.setOptWp v).nv = s.nv := rfl
@[simp] theorem State.setOptWp_tgt (v : Word) : (s.setOptWp v).tgt = s.tgt := rfl
@[simp] theorem State.setOptWp_progress (v : Word) : (s.setOptWp v).progress = s.progress := rfl
@[simp] theorem State.setOptWp_fftLen (v : Word) : (s.setOptWp v).fftLen = s.fftLen := rfl
@[simp] theorem State.setOptWp_hannLen (v : Word) : (s.setOptWp v).hannLen = s.hannLen := rfl
@[simp] theorem State.setOptWp_gz (v : Word) : (s.setOptWp v).gz = s.gz := rfl
@[simp] theorem State.setOptWp_bq (v : Word) : (s.setOptWp v).bq = s.bq := rfl
@[simp] theorem State.setOptWp_ema (v : Word) : (s.setOptWp v).ema = s.ema := rfl
@[simp] theorem State.setOptWp_notch (v : Word) : (s.setOptWp v).notch = s.notch := rfl
@[simp] theorem State.setOptWp_cb (v : Word) : (s.setOptWp v).cb = s.cb := rfl
@[simp] theorem State.setOptWp_ma (v : Word) : (s.setOptWp v).ma = s.ma := rfl
@[simp] theorem State.setOptWp_ring (v : Word) : (s.setOptWp v).ring = s.ring := rfl
@[simp] theorem State.setOptWp_xbuf (v : Word) : (s.setOptWp v).xbuf = s.xbuf := rfl
@[simp] theorem State.setOptWp_tab (v : Word) : (s.setOptWp v).tab = s.tab := rfl
@[simp] theorem State.setOptWp_hcoef (v : Word) : (s.setOptWp v).hcoef = s.hcoef := rfl
@[simp] theorem State.setOptWp_drawTape (v : Word) : (s.setOptWp v).drawTape = s.drawTape := rfl
@[simp] theorem State.setOptWp_drawCount (v : Word) : (s.setOptWp v).drawCount = s.drawCount := rfl
@[simp] theorem State.setOptWp_schedule (v : Word) : (s.setOptWp v).schedule = s.schedule := rfl
@[simp] theorem State.setOptWp_turnCount (v : Word) : (s.setOptWp v).turnCount = s.turnCount := rfl
@[simp] theorem State.setOptWp_hostProgram (v : Word) : (s.setOptWp v).hostProgram = s.hostProgram := rfl
@[simp] theorem State.setOptWp_hostPos (v : Word) : (s.setOptWp v).hostPos = s.hostPos := rfl
@[simp] theorem State.setOptWp_hostData (v : Word) : (s.setOptWp v).hostData = s.hostData := rfl

@[simp] theorem State.setWp_cfg (v : Word) : (s.setWp v).cfg = s.cfg := rfl
@[simp] theorem State.setWp_cmd (v : Word) : (s.setWp v).cmd = s.cmd := rfl
@[simp] theorem State.setWp_rc (v : Word) : (s.setWp v).rc = s.rc := rfl
@[simp] theorem State.setWp_args (v : Word) : (s.setWp v).args = s.args := rfl
@[simp] theorem State.setWp_res (v : Word) : (s.setWp v).res = s.res := rfl
@[simp] theorem State.setWp_acqC (v : Word) : (s.setWp v).acqC = s.acqC := rfl
@[simp] theorem State.setWp_acqS (v : Word) : (s.setWp v).acqS = s.acqS := rfl
@[simp] theorem State.setWp_w32 (v : Word) : (s.setWp v).w32 = s.w32 := rfl
@[simp] theorem State.setWp_armed (v : Word) : (s.setWp v).armed = s.armed := rfl
@[simp] theorem State.setWp_active (v : Word) : (s.setWp v).active = s.active := rfl
@[simp] theorem State.setWp_last (v : Word) : (s.setWp v).last = s.last := rfl
@[simp] theorem State.setWp_wptr (v : Word) : (s.setWp v).wptr = s.wptr := rfl
@[simp] theorem State.setWp_fifo (v : Word) : (s.setWp v).fifo = s.fifo := rfl
@[simp] theorem State.setWp_crc4Poly (v : Word) : (s.setWp v).crc4Poly = s.crc4Poly := rfl
@[simp] theorem State.setWp_crc4Init (v : Word) : (s.setWp v).crc4Init = s.crc4Init := rfl
@[simp] theorem State.setWp_crc8Poly (v : Word) : (s.setWp v).crc8Poly = s.crc8Poly := rfl
@[simp] theorem State.setWp_crc8Init (v : Word) : (s.setWp v).crc8Init = s.crc8Init := rfl
@[simp] theorem State.setWp_lock (v : Word) : (s.setWp v).lock = s.lock := rfl
@[simp] theorem State.setWp_oblock (v : Word) : (s.setWp v).oblock = s.oblock := rfl
@[simp] theorem State.setWp_nvWp (v : Word) : (s.setWp v).nvWp = v := rfl
@[simp] theorem State.setWp_nvOptWp (v : Word) : (s.setWp v).nvOptWp = s.nvOptWp := rfl
@[simp] theorem State.setWp_nv (v : Word) : (s.setWp v).nv = s.nv := rfl
@[simp] theorem State.setWp_tgt (v : Word) : (s.setWp v).tgt = s.tgt := rfl
@[simp] theorem State.setWp_progress (v : Word) : (s.setWp v).progress = s.progress := rfl
@[simp] theorem State.setWp_fftLen (v : Word) : (s.setWp v).fftLen = s.fftLen := rfl
@[simp] theorem State.setWp_hannLen (v : Word) : (s.setWp v).hannLen = s.hannLen := rfl
@[simp] theorem State.setWp_gz (v : Word) : (s.setWp v).gz = s.gz := rfl
@[simp] theorem State.setWp_bq (v : Word) : (s.setWp v).bq = s.bq := rfl
@[simp] theorem State.setWp_ema (v : Word) : (s.setWp v).ema = s.ema := rfl
@[simp] theorem State.setWp_notch (v : Word) : (s.setWp v).notch = s.notch := rfl
@[simp] theorem State.setWp_cb (v : Word) : (s.setWp v).cb = s.cb := rfl
@[simp] theorem State.setWp_ma (v : Word) : (s.setWp v).ma = s.ma := rfl
@[simp] theorem State.setWp_ring (v : Word) : (s.setWp v).ring = s.ring := rfl
@[simp] theorem State.setWp_xbuf (v : Word) : (s.setWp v).xbuf = s.xbuf := rfl
@[simp] theorem State.setWp_tab (v : Word) : (s.setWp v).tab = s.tab := rfl
@[simp] theorem State.setWp_hcoef (v : Word) : (s.setWp v).hcoef = s.hcoef := rfl
@[simp] theorem State.setWp_drawTape (v : Word) : (s.setWp v).drawTape = s.drawTape := rfl
@[simp] theorem State.setWp_drawCount (v : Word) : (s.setWp v).drawCount = s.drawCount := rfl
@[simp] theorem State.setWp_schedule (v : Word) : (s.setWp v).schedule = s.schedule := rfl
@[simp] theorem State.setWp_turnCount (v : Word) : (s.setWp v).turnCount = s.turnCount := rfl
@[simp] theorem State.setWp_hostProgram (v : Word) : (s.setWp v).hostProgram = s.hostProgram := rfl
@[simp] theorem State.setWp_hostPos (v : Word) : (s.setWp v).hostPos = s.hostPos := rfl
@[simp] theorem State.setWp_hostData (v : Word) : (s.setWp v).hostData = s.hostData := rfl

/-- Storing samples changes the ring only. -/
theorem State.setSamples_eq (h : Half) (c lo : Nat) (vs : List Int) :
    ∃ r, s.setSamples h c lo vs = { s with ring := r } := by
  induction vs generalizing s lo with
  | nil => exact ⟨s.ring, rfl⟩
  | cons v vs ih =>
    obtain ⟨r, hr⟩ := ih (s.setSample h lo c v) (lo + 1)
    exact ⟨r, hr⟩

@[simp] theorem State.setSamples_cfg (h : Half) (c lo : Nat) (vs : List Int) :
    (s.setSamples h c lo vs).cfg = s.cfg := by obtain ⟨r, hr⟩ := s.setSamples_eq h c lo vs; rw [hr]
@[simp] theorem State.setSamples_cmd (h : Half) (c lo : Nat) (vs : List Int) :
    (s.setSamples h c lo vs).cmd = s.cmd := by obtain ⟨r, hr⟩ := s.setSamples_eq h c lo vs; rw [hr]
@[simp] theorem State.setSamples_rc (h : Half) (c lo : Nat) (vs : List Int) :
    (s.setSamples h c lo vs).rc = s.rc := by obtain ⟨r, hr⟩ := s.setSamples_eq h c lo vs; rw [hr]
@[simp] theorem State.setSamples_args (h : Half) (c lo : Nat) (vs : List Int) :
    (s.setSamples h c lo vs).args = s.args := by obtain ⟨r, hr⟩ := s.setSamples_eq h c lo vs; rw [hr]
@[simp] theorem State.setSamples_res (h : Half) (c lo : Nat) (vs : List Int) :
    (s.setSamples h c lo vs).res = s.res := by obtain ⟨r, hr⟩ := s.setSamples_eq h c lo vs; rw [hr]
@[simp] theorem State.setSamples_acqC (h : Half) (c lo : Nat) (vs : List Int) :
    (s.setSamples h c lo vs).acqC = s.acqC := by obtain ⟨r, hr⟩ := s.setSamples_eq h c lo vs; rw [hr]
@[simp] theorem State.setSamples_acqS (h : Half) (c lo : Nat) (vs : List Int) :
    (s.setSamples h c lo vs).acqS = s.acqS := by obtain ⟨r, hr⟩ := s.setSamples_eq h c lo vs; rw [hr]
@[simp] theorem State.setSamples_w32 (h : Half) (c lo : Nat) (vs : List Int) :
    (s.setSamples h c lo vs).w32 = s.w32 := by obtain ⟨r, hr⟩ := s.setSamples_eq h c lo vs; rw [hr]
@[simp] theorem State.setSamples_armed (h : Half) (c lo : Nat) (vs : List Int) :
    (s.setSamples h c lo vs).armed = s.armed := by obtain ⟨r, hr⟩ := s.setSamples_eq h c lo vs; rw [hr]
@[simp] theorem State.setSamples_active (h : Half) (c lo : Nat) (vs : List Int) :
    (s.setSamples h c lo vs).active = s.active := by obtain ⟨r, hr⟩ := s.setSamples_eq h c lo vs; rw [hr]
@[simp] theorem State.setSamples_last (h : Half) (c lo : Nat) (vs : List Int) :
    (s.setSamples h c lo vs).last = s.last := by obtain ⟨r, hr⟩ := s.setSamples_eq h c lo vs; rw [hr]
@[simp] theorem State.setSamples_wptr (h : Half) (c lo : Nat) (vs : List Int) :
    (s.setSamples h c lo vs).wptr = s.wptr := by obtain ⟨r, hr⟩ := s.setSamples_eq h c lo vs; rw [hr]
@[simp] theorem State.setSamples_fifo (h : Half) (c lo : Nat) (vs : List Int) :
    (s.setSamples h c lo vs).fifo = s.fifo := by obtain ⟨r, hr⟩ := s.setSamples_eq h c lo vs; rw [hr]
@[simp] theorem State.setSamples_crc4Poly (h : Half) (c lo : Nat) (vs : List Int) :
    (s.setSamples h c lo vs).crc4Poly = s.crc4Poly := by obtain ⟨r, hr⟩ := s.setSamples_eq h c lo vs; rw [hr]
@[simp] theorem State.setSamples_crc4Init (h : Half) (c lo : Nat) (vs : List Int) :
    (s.setSamples h c lo vs).crc4Init = s.crc4Init := by obtain ⟨r, hr⟩ := s.setSamples_eq h c lo vs; rw [hr]
@[simp] theorem State.setSamples_crc8Poly (h : Half) (c lo : Nat) (vs : List Int) :
    (s.setSamples h c lo vs).crc8Poly = s.crc8Poly := by obtain ⟨r, hr⟩ := s.setSamples_eq h c lo vs; rw [hr]
@[simp] theorem State.setSamples_crc8Init (h : Half) (c lo : Nat) (vs : List Int) :
    (s.setSamples h c lo vs).crc8Init = s.crc8Init := by obtain ⟨r, hr⟩ := s.setSamples_eq h c lo vs; rw [hr]
@[simp] theorem State.setSamples_lock (h : Half) (c lo : Nat) (vs : List Int) :
    (s.setSamples h c lo vs).lock = s.lock := by obtain ⟨r, hr⟩ := s.setSamples_eq h c lo vs; rw [hr]
@[simp] theorem State.setSamples_oblock (h : Half) (c lo : Nat) (vs : List Int) :
    (s.setSamples h c lo vs).oblock = s.oblock := by obtain ⟨r, hr⟩ := s.setSamples_eq h c lo vs; rw [hr]
@[simp] theorem State.setSamples_nvWp (h : Half) (c lo : Nat) (vs : List Int) :
    (s.setSamples h c lo vs).nvWp = s.nvWp := by obtain ⟨r, hr⟩ := s.setSamples_eq h c lo vs; rw [hr]
@[simp] theorem State.setSamples_nvOptWp (h : Half) (c lo : Nat) (vs : List Int) :
    (s.setSamples h c lo vs).nvOptWp = s.nvOptWp := by obtain ⟨r, hr⟩ := s.setSamples_eq h c lo vs; rw [hr]
@[simp] theorem State.setSamples_nv (h : Half) (c lo : Nat) (vs : List Int) :
    (s.setSamples h c lo vs).nv = s.nv := by obtain ⟨r, hr⟩ := s.setSamples_eq h c lo vs; rw [hr]
@[simp] theorem State.setSamples_tgt (h : Half) (c lo : Nat) (vs : List Int) :
    (s.setSamples h c lo vs).tgt = s.tgt := by obtain ⟨r, hr⟩ := s.setSamples_eq h c lo vs; rw [hr]
@[simp] theorem State.setSamples_progress (h : Half) (c lo : Nat) (vs : List Int) :
    (s.setSamples h c lo vs).progress = s.progress := by obtain ⟨r, hr⟩ := s.setSamples_eq h c lo vs; rw [hr]
@[simp] theorem State.setSamples_fftLen (h : Half) (c lo : Nat) (vs : List Int) :
    (s.setSamples h c lo vs).fftLen = s.fftLen := by obtain ⟨r, hr⟩ := s.setSamples_eq h c lo vs; rw [hr]
@[simp] theorem State.setSamples_hannLen (h : Half) (c lo : Nat) (vs : List Int) :
    (s.setSamples h c lo vs).hannLen = s.hannLen := by obtain ⟨r, hr⟩ := s.setSamples_eq h c lo vs; rw [hr]
@[simp] theorem State.setSamples_gz (h : Half) (c lo : Nat) (vs : List Int) :
    (s.setSamples h c lo vs).gz = s.gz := by obtain ⟨r, hr⟩ := s.setSamples_eq h c lo vs; rw [hr]
@[simp] theorem State.setSamples_bq (h : Half) (c lo : Nat) (vs : List Int) :
    (s.setSamples h c lo vs).bq = s.bq := by obtain ⟨r, hr⟩ := s.setSamples_eq h c lo vs; rw [hr]
@[simp] theorem State.setSamples_ema (h : Half) (c lo : Nat) (vs : List Int) :
    (s.setSamples h c lo vs).ema = s.ema := by obtain ⟨r, hr⟩ := s.setSamples_eq h c lo vs; rw [hr]
@[simp] theorem State.setSamples_notch (h : Half) (c lo : Nat) (vs : List Int) :
    (s.setSamples h c lo vs).notch = s.notch := by obtain ⟨r, hr⟩ := s.setSamples_eq h c lo vs; rw [hr]
@[simp] theorem State.setSamples_cb (h : Half) (c lo : Nat) (vs : List Int) :
    (s.setSamples h c lo vs).cb = s.cb := by obtain ⟨r, hr⟩ := s.setSamples_eq h c lo vs; rw [hr]
@[simp] theorem State.setSamples_ma (h : Half) (c lo : Nat) (vs : List Int) :
    (s.setSamples h c lo vs).ma = s.ma := by obtain ⟨r, hr⟩ := s.setSamples_eq h c lo vs; rw [hr]
@[simp] theorem State.setSamples_xbuf (h : Half) (c lo : Nat) (vs : List Int) :
    (s.setSamples h c lo vs).xbuf = s.xbuf := by obtain ⟨r, hr⟩ := s.setSamples_eq h c lo vs; rw [hr]
@[simp] theorem State.setSamples_tab (h : Half) (c lo : Nat) (vs : List Int) :
    (s.setSamples h c lo vs).tab = s.tab := by obtain ⟨r, hr⟩ := s.setSamples_eq h c lo vs; rw [hr]
@[simp] theorem State.setSamples_hcoef (h : Half) (c lo : Nat) (vs : List Int) :
    (s.setSamples h c lo vs).hcoef = s.hcoef := by obtain ⟨r, hr⟩ := s.setSamples_eq h c lo vs; rw [hr]
@[simp] theorem State.setSamples_drawTape (h : Half) (c lo : Nat) (vs : List Int) :
    (s.setSamples h c lo vs).drawTape = s.drawTape := by obtain ⟨r, hr⟩ := s.setSamples_eq h c lo vs; rw [hr]
@[simp] theorem State.setSamples_drawCount (h : Half) (c lo : Nat) (vs : List Int) :
    (s.setSamples h c lo vs).drawCount = s.drawCount := by obtain ⟨r, hr⟩ := s.setSamples_eq h c lo vs; rw [hr]
@[simp] theorem State.setSamples_schedule (h : Half) (c lo : Nat) (vs : List Int) :
    (s.setSamples h c lo vs).schedule = s.schedule := by obtain ⟨r, hr⟩ := s.setSamples_eq h c lo vs; rw [hr]
@[simp] theorem State.setSamples_turnCount (h : Half) (c lo : Nat) (vs : List Int) :
    (s.setSamples h c lo vs).turnCount = s.turnCount := by obtain ⟨r, hr⟩ := s.setSamples_eq h c lo vs; rw [hr]
@[simp] theorem State.setSamples_hostProgram (h : Half) (c lo : Nat) (vs : List Int) :
    (s.setSamples h c lo vs).hostProgram = s.hostProgram := by obtain ⟨r, hr⟩ := s.setSamples_eq h c lo vs; rw [hr]
@[simp] theorem State.setSamples_hostPos (h : Half) (c lo : Nat) (vs : List Int) :
    (s.setSamples h c lo vs).hostPos = s.hostPos := by obtain ⟨r, hr⟩ := s.setSamples_eq h c lo vs; rw [hr]
@[simp] theorem State.setSamples_hostData (h : Half) (c lo : Nat) (vs : List Int) :
    (s.setSamples h c lo vs).hostData = s.hostData := by obtain ⟨r, hr⟩ := s.setSamples_eq h c lo vs; rw [hr]

/-- `s` with its tape and its draw counter replaced: what draws leave. -/
def State.withDraws (tape : List Nat) (count : Nat) : State := { s with drawTape := tape, drawCount := count }

@[simp] theorem State.withDraws_cfg (t : List Nat) (n : Nat) : (s.withDraws t n).cfg = s.cfg := rfl
@[simp] theorem State.withDraws_cmd (t : List Nat) (n : Nat) : (s.withDraws t n).cmd = s.cmd := rfl
@[simp] theorem State.withDraws_rc (t : List Nat) (n : Nat) : (s.withDraws t n).rc = s.rc := rfl
@[simp] theorem State.withDraws_args (t : List Nat) (n : Nat) : (s.withDraws t n).args = s.args := rfl
@[simp] theorem State.withDraws_res (t : List Nat) (n : Nat) : (s.withDraws t n).res = s.res := rfl
@[simp] theorem State.withDraws_acqC (t : List Nat) (n : Nat) : (s.withDraws t n).acqC = s.acqC := rfl
@[simp] theorem State.withDraws_acqS (t : List Nat) (n : Nat) : (s.withDraws t n).acqS = s.acqS := rfl
@[simp] theorem State.withDraws_w32 (t : List Nat) (n : Nat) : (s.withDraws t n).w32 = s.w32 := rfl
@[simp] theorem State.withDraws_armed (t : List Nat) (n : Nat) : (s.withDraws t n).armed = s.armed := rfl
@[simp] theorem State.withDraws_active (t : List Nat) (n : Nat) : (s.withDraws t n).active = s.active := rfl
@[simp] theorem State.withDraws_last (t : List Nat) (n : Nat) : (s.withDraws t n).last = s.last := rfl
@[simp] theorem State.withDraws_wptr (t : List Nat) (n : Nat) : (s.withDraws t n).wptr = s.wptr := rfl
@[simp] theorem State.withDraws_fifo (t : List Nat) (n : Nat) : (s.withDraws t n).fifo = s.fifo := rfl
@[simp] theorem State.withDraws_crc4Poly (t : List Nat) (n : Nat) : (s.withDraws t n).crc4Poly = s.crc4Poly := rfl
@[simp] theorem State.withDraws_crc4Init (t : List Nat) (n : Nat) : (s.withDraws t n).crc4Init = s.crc4Init := rfl
@[simp] theorem State.withDraws_crc8Poly (t : List Nat) (n : Nat) : (s.withDraws t n).crc8Poly = s.crc8Poly := rfl
@[simp] theorem State.withDraws_crc8Init (t : List Nat) (n : Nat) : (s.withDraws t n).crc8Init = s.crc8Init := rfl
@[simp] theorem State.withDraws_lock (t : List Nat) (n : Nat) : (s.withDraws t n).lock = s.lock := rfl
@[simp] theorem State.withDraws_oblock (t : List Nat) (n : Nat) : (s.withDraws t n).oblock = s.oblock := rfl
@[simp] theorem State.withDraws_nvWp (t : List Nat) (n : Nat) : (s.withDraws t n).nvWp = s.nvWp := rfl
@[simp] theorem State.withDraws_nvOptWp (t : List Nat) (n : Nat) : (s.withDraws t n).nvOptWp = s.nvOptWp := rfl
@[simp] theorem State.withDraws_nv (t : List Nat) (n : Nat) : (s.withDraws t n).nv = s.nv := rfl
@[simp] theorem State.withDraws_tgt (t : List Nat) (n : Nat) : (s.withDraws t n).tgt = s.tgt := rfl
@[simp] theorem State.withDraws_progress (t : List Nat) (n : Nat) : (s.withDraws t n).progress = s.progress := rfl
@[simp] theorem State.withDraws_fftLen (t : List Nat) (n : Nat) : (s.withDraws t n).fftLen = s.fftLen := rfl
@[simp] theorem State.withDraws_hannLen (t : List Nat) (n : Nat) : (s.withDraws t n).hannLen = s.hannLen := rfl
@[simp] theorem State.withDraws_gz (t : List Nat) (n : Nat) : (s.withDraws t n).gz = s.gz := rfl
@[simp] theorem State.withDraws_bq (t : List Nat) (n : Nat) : (s.withDraws t n).bq = s.bq := rfl
@[simp] theorem State.withDraws_ema (t : List Nat) (n : Nat) : (s.withDraws t n).ema = s.ema := rfl
@[simp] theorem State.withDraws_notch (t : List Nat) (n : Nat) : (s.withDraws t n).notch = s.notch := rfl
@[simp] theorem State.withDraws_cb (t : List Nat) (n : Nat) : (s.withDraws t n).cb = s.cb := rfl
@[simp] theorem State.withDraws_ma (t : List Nat) (n : Nat) : (s.withDraws t n).ma = s.ma := rfl
@[simp] theorem State.withDraws_ring (t : List Nat) (n : Nat) : (s.withDraws t n).ring = s.ring := rfl
@[simp] theorem State.withDraws_xbuf (t : List Nat) (n : Nat) : (s.withDraws t n).xbuf = s.xbuf := rfl
@[simp] theorem State.withDraws_tab (t : List Nat) (n : Nat) : (s.withDraws t n).tab = s.tab := rfl
@[simp] theorem State.withDraws_hcoef (t : List Nat) (n : Nat) : (s.withDraws t n).hcoef = s.hcoef := rfl
@[simp] theorem State.withDraws_drawTape (t : List Nat) (n : Nat) : (s.withDraws t n).drawTape = t := rfl
@[simp] theorem State.withDraws_drawCount (t : List Nat) (n : Nat) : (s.withDraws t n).drawCount = n := rfl
@[simp] theorem State.withDraws_schedule (t : List Nat) (n : Nat) : (s.withDraws t n).schedule = s.schedule := rfl
@[simp] theorem State.withDraws_turnCount (t : List Nat) (n : Nat) : (s.withDraws t n).turnCount = s.turnCount := rfl
@[simp] theorem State.withDraws_hostProgram (t : List Nat) (n : Nat) : (s.withDraws t n).hostProgram = s.hostProgram := rfl
@[simp] theorem State.withDraws_hostPos (t : List Nat) (n : Nat) : (s.withDraws t n).hostPos = s.hostPos := rfl
@[simp] theorem State.withDraws_hostData (t : List Nat) (n : Nat) : (s.withDraws t n).hostData = s.hostData := rfl
@[simp] theorem State.setTgt_cfg (g : TornTarget) : (s.setTgt g).cfg = s.cfg := rfl
@[simp] theorem State.setTgt_cmd (g : TornTarget) : (s.setTgt g).cmd = s.cmd := rfl
@[simp] theorem State.setTgt_rc (g : TornTarget) : (s.setTgt g).rc = s.rc := rfl
@[simp] theorem State.setTgt_args (g : TornTarget) : (s.setTgt g).args = s.args := rfl
@[simp] theorem State.setTgt_res (g : TornTarget) : (s.setTgt g).res = s.res := rfl
@[simp] theorem State.setTgt_acqC (g : TornTarget) : (s.setTgt g).acqC = s.acqC := rfl
@[simp] theorem State.setTgt_acqS (g : TornTarget) : (s.setTgt g).acqS = s.acqS := rfl
@[simp] theorem State.setTgt_w32 (g : TornTarget) : (s.setTgt g).w32 = s.w32 := rfl
@[simp] theorem State.setTgt_armed (g : TornTarget) : (s.setTgt g).armed = s.armed := rfl
@[simp] theorem State.setTgt_active (g : TornTarget) : (s.setTgt g).active = s.active := rfl
@[simp] theorem State.setTgt_last (g : TornTarget) : (s.setTgt g).last = s.last := rfl
@[simp] theorem State.setTgt_wptr (g : TornTarget) : (s.setTgt g).wptr = s.wptr := rfl
@[simp] theorem State.setTgt_fifo (g : TornTarget) : (s.setTgt g).fifo = s.fifo := rfl
@[simp] theorem State.setTgt_crc4Poly (g : TornTarget) : (s.setTgt g).crc4Poly = s.crc4Poly := rfl
@[simp] theorem State.setTgt_crc4Init (g : TornTarget) : (s.setTgt g).crc4Init = s.crc4Init := rfl
@[simp] theorem State.setTgt_crc8Poly (g : TornTarget) : (s.setTgt g).crc8Poly = s.crc8Poly := rfl
@[simp] theorem State.setTgt_crc8Init (g : TornTarget) : (s.setTgt g).crc8Init = s.crc8Init := rfl
@[simp] theorem State.setTgt_lock (g : TornTarget) : (s.setTgt g).lock = s.lock := rfl
@[simp] theorem State.setTgt_oblock (g : TornTarget) : (s.setTgt g).oblock = s.oblock := rfl
@[simp] theorem State.setTgt_nvWp (g : TornTarget) : (s.setTgt g).nvWp = s.nvWp := rfl
@[simp] theorem State.setTgt_nvOptWp (g : TornTarget) : (s.setTgt g).nvOptWp = s.nvOptWp := rfl
@[simp] theorem State.setTgt_nv (g : TornTarget) : (s.setTgt g).nv = s.nv := rfl
@[simp] theorem State.setTgt_tgt (g : TornTarget) : (s.setTgt g).tgt = g := rfl
@[simp] theorem State.setTgt_progress (g : TornTarget) : (s.setTgt g).progress = s.progress := rfl
@[simp] theorem State.setTgt_fftLen (g : TornTarget) : (s.setTgt g).fftLen = s.fftLen := rfl
@[simp] theorem State.setTgt_hannLen (g : TornTarget) : (s.setTgt g).hannLen = s.hannLen := rfl
@[simp] theorem State.setTgt_gz (g : TornTarget) : (s.setTgt g).gz = s.gz := rfl
@[simp] theorem State.setTgt_bq (g : TornTarget) : (s.setTgt g).bq = s.bq := rfl
@[simp] theorem State.setTgt_ema (g : TornTarget) : (s.setTgt g).ema = s.ema := rfl
@[simp] theorem State.setTgt_notch (g : TornTarget) : (s.setTgt g).notch = s.notch := rfl
@[simp] theorem State.setTgt_cb (g : TornTarget) : (s.setTgt g).cb = s.cb := rfl
@[simp] theorem State.setTgt_ma (g : TornTarget) : (s.setTgt g).ma = s.ma := rfl
@[simp] theorem State.setTgt_ring (g : TornTarget) : (s.setTgt g).ring = s.ring := rfl
@[simp] theorem State.setTgt_xbuf (g : TornTarget) : (s.setTgt g).xbuf = s.xbuf := rfl
@[simp] theorem State.setTgt_tab (g : TornTarget) : (s.setTgt g).tab = s.tab := rfl
@[simp] theorem State.setTgt_hcoef (g : TornTarget) : (s.setTgt g).hcoef = s.hcoef := rfl
@[simp] theorem State.setTgt_drawTape (g : TornTarget) : (s.setTgt g).drawTape = s.drawTape := rfl
@[simp] theorem State.setTgt_drawCount (g : TornTarget) : (s.setTgt g).drawCount = s.drawCount := rfl
@[simp] theorem State.setTgt_schedule (g : TornTarget) : (s.setTgt g).schedule = s.schedule := rfl
@[simp] theorem State.setTgt_turnCount (g : TornTarget) : (s.setTgt g).turnCount = s.turnCount := rfl
@[simp] theorem State.setTgt_hostProgram (g : TornTarget) : (s.setTgt g).hostProgram = s.hostProgram := rfl
@[simp] theorem State.setTgt_hostPos (g : TornTarget) : (s.setTgt g).hostPos = s.hostPos := rfl
@[simp] theorem State.setTgt_hostData (g : TornTarget) : (s.setTgt g).hostData = s.hostData := rfl

/-- A draw moves along the tape or counts a free value, and changes nothing else. -/
theorem State.draw_eq : ∃ t n, s.draw.2 = s.withDraws t n := by
  unfold State.draw; split
  · exact ⟨_, s.drawCount, rfl⟩
  · exact ⟨s.drawTape, _, rfl⟩

@[simp] theorem State.drawBool_snd : s.drawBool.2 = s.draw.2 := rfl
@[simp] theorem State.drawBits_snd (w : Nat) : (s.drawBits w).2 = s.draw.2 := rfl

/-- Drawing bytes moves along the tape or counts free values, and changes nothing else. -/
theorem State.drawBytes_eq (k : Nat) : ∃ t n, (s.drawBytes k).2 = s.withDraws t n := by
  induction k generalizing s with
  | zero => exact ⟨s.drawTape, s.drawCount, rfl⟩
  | succ k ih =>
    obtain ⟨t, n, h⟩ := ih s.draw.2
    obtain ⟨t', n', h'⟩ := s.draw_eq
    refine ⟨t, n, ?_⟩
    show (s.draw.2.drawBytes k).2 = _
    rw [h, h']
    rfl

@[simp] theorem State.drawBytes_length (k : Nat) : (s.drawBytes k).1.length = k := by
  induction k generalizing s with
  | zero => rfl
  | succ k ih => simp [State.drawBytes, ih]

@[simp] theorem State.draw_cfg : s.draw.2.cfg = s.cfg := by obtain ⟨t, n, h⟩ := s.draw_eq; rw [h]; rfl
@[simp] theorem State.drawBytes_cfg (k : Nat) : (s.drawBytes k).2.cfg = s.cfg := by
  obtain ⟨t, n, h⟩ := s.drawBytes_eq k; rw [h]; rfl
@[simp] theorem State.draw_cmd : s.draw.2.cmd = s.cmd := by obtain ⟨t, n, h⟩ := s.draw_eq; rw [h]; rfl
@[simp] theorem State.drawBytes_cmd (k : Nat) : (s.drawBytes k).2.cmd = s.cmd := by
  obtain ⟨t, n, h⟩ := s.drawBytes_eq k; rw [h]; rfl
@[simp] theorem State.draw_rc : s.draw.2.rc = s.rc := by obtain ⟨t, n, h⟩ := s.draw_eq; rw [h]; rfl
@[simp] theorem State.drawBytes_rc (k : Nat) : (s.drawBytes k).2.rc = s.rc := by
  obtain ⟨t, n, h⟩ := s.drawBytes_eq k; rw [h]; rfl
@[simp] theorem State.draw_args : s.draw.2.args = s.args := by obtain ⟨t, n, h⟩ := s.draw_eq; rw [h]; rfl
@[simp] theorem State.drawBytes_args (k : Nat) : (s.drawBytes k).2.args = s.args := by
  obtain ⟨t, n, h⟩ := s.drawBytes_eq k; rw [h]; rfl
@[simp] theorem State.draw_res : s.draw.2.res = s.res := by obtain ⟨t, n, h⟩ := s.draw_eq; rw [h]; rfl
@[simp] theorem State.drawBytes_res (k : Nat) : (s.drawBytes k).2.res = s.res := by
  obtain ⟨t, n, h⟩ := s.drawBytes_eq k; rw [h]; rfl
@[simp] theorem State.draw_acqC : s.draw.2.acqC = s.acqC := by obtain ⟨t, n, h⟩ := s.draw_eq; rw [h]; rfl
@[simp] theorem State.drawBytes_acqC (k : Nat) : (s.drawBytes k).2.acqC = s.acqC := by
  obtain ⟨t, n, h⟩ := s.drawBytes_eq k; rw [h]; rfl
@[simp] theorem State.draw_acqS : s.draw.2.acqS = s.acqS := by obtain ⟨t, n, h⟩ := s.draw_eq; rw [h]; rfl
@[simp] theorem State.drawBytes_acqS (k : Nat) : (s.drawBytes k).2.acqS = s.acqS := by
  obtain ⟨t, n, h⟩ := s.drawBytes_eq k; rw [h]; rfl
@[simp] theorem State.draw_w32 : s.draw.2.w32 = s.w32 := by obtain ⟨t, n, h⟩ := s.draw_eq; rw [h]; rfl
@[simp] theorem State.drawBytes_w32 (k : Nat) : (s.drawBytes k).2.w32 = s.w32 := by
  obtain ⟨t, n, h⟩ := s.drawBytes_eq k; rw [h]; rfl
@[simp] theorem State.draw_armed : s.draw.2.armed = s.armed := by obtain ⟨t, n, h⟩ := s.draw_eq; rw [h]; rfl
@[simp] theorem State.drawBytes_armed (k : Nat) : (s.drawBytes k).2.armed = s.armed := by
  obtain ⟨t, n, h⟩ := s.drawBytes_eq k; rw [h]; rfl
@[simp] theorem State.draw_active : s.draw.2.active = s.active := by obtain ⟨t, n, h⟩ := s.draw_eq; rw [h]; rfl
@[simp] theorem State.drawBytes_active (k : Nat) : (s.drawBytes k).2.active = s.active := by
  obtain ⟨t, n, h⟩ := s.drawBytes_eq k; rw [h]; rfl
@[simp] theorem State.draw_last : s.draw.2.last = s.last := by obtain ⟨t, n, h⟩ := s.draw_eq; rw [h]; rfl
@[simp] theorem State.drawBytes_last (k : Nat) : (s.drawBytes k).2.last = s.last := by
  obtain ⟨t, n, h⟩ := s.drawBytes_eq k; rw [h]; rfl
@[simp] theorem State.draw_wptr : s.draw.2.wptr = s.wptr := by obtain ⟨t, n, h⟩ := s.draw_eq; rw [h]; rfl
@[simp] theorem State.drawBytes_wptr (k : Nat) : (s.drawBytes k).2.wptr = s.wptr := by
  obtain ⟨t, n, h⟩ := s.drawBytes_eq k; rw [h]; rfl
@[simp] theorem State.draw_fifo : s.draw.2.fifo = s.fifo := by obtain ⟨t, n, h⟩ := s.draw_eq; rw [h]; rfl
@[simp] theorem State.drawBytes_fifo (k : Nat) : (s.drawBytes k).2.fifo = s.fifo := by
  obtain ⟨t, n, h⟩ := s.drawBytes_eq k; rw [h]; rfl
@[simp] theorem State.draw_crc4Poly : s.draw.2.crc4Poly = s.crc4Poly := by obtain ⟨t, n, h⟩ := s.draw_eq; rw [h]; rfl
@[simp] theorem State.drawBytes_crc4Poly (k : Nat) : (s.drawBytes k).2.crc4Poly = s.crc4Poly := by
  obtain ⟨t, n, h⟩ := s.drawBytes_eq k; rw [h]; rfl
@[simp] theorem State.draw_crc4Init : s.draw.2.crc4Init = s.crc4Init := by obtain ⟨t, n, h⟩ := s.draw_eq; rw [h]; rfl
@[simp] theorem State.drawBytes_crc4Init (k : Nat) : (s.drawBytes k).2.crc4Init = s.crc4Init := by
  obtain ⟨t, n, h⟩ := s.drawBytes_eq k; rw [h]; rfl
@[simp] theorem State.draw_crc8Poly : s.draw.2.crc8Poly = s.crc8Poly := by obtain ⟨t, n, h⟩ := s.draw_eq; rw [h]; rfl
@[simp] theorem State.drawBytes_crc8Poly (k : Nat) : (s.drawBytes k).2.crc8Poly = s.crc8Poly := by
  obtain ⟨t, n, h⟩ := s.drawBytes_eq k; rw [h]; rfl
@[simp] theorem State.draw_crc8Init : s.draw.2.crc8Init = s.crc8Init := by obtain ⟨t, n, h⟩ := s.draw_eq; rw [h]; rfl
@[simp] theorem State.drawBytes_crc8Init (k : Nat) : (s.drawBytes k).2.crc8Init = s.crc8Init := by
  obtain ⟨t, n, h⟩ := s.drawBytes_eq k; rw [h]; rfl
@[simp] theorem State.draw_lock : s.draw.2.lock = s.lock := by obtain ⟨t, n, h⟩ := s.draw_eq; rw [h]; rfl
@[simp] theorem State.drawBytes_lock (k : Nat) : (s.drawBytes k).2.lock = s.lock := by
  obtain ⟨t, n, h⟩ := s.drawBytes_eq k; rw [h]; rfl
@[simp] theorem State.draw_oblock : s.draw.2.oblock = s.oblock := by obtain ⟨t, n, h⟩ := s.draw_eq; rw [h]; rfl
@[simp] theorem State.drawBytes_oblock (k : Nat) : (s.drawBytes k).2.oblock = s.oblock := by
  obtain ⟨t, n, h⟩ := s.drawBytes_eq k; rw [h]; rfl
@[simp] theorem State.draw_nvWp : s.draw.2.nvWp = s.nvWp := by obtain ⟨t, n, h⟩ := s.draw_eq; rw [h]; rfl
@[simp] theorem State.drawBytes_nvWp (k : Nat) : (s.drawBytes k).2.nvWp = s.nvWp := by
  obtain ⟨t, n, h⟩ := s.drawBytes_eq k; rw [h]; rfl
@[simp] theorem State.draw_nvOptWp : s.draw.2.nvOptWp = s.nvOptWp := by obtain ⟨t, n, h⟩ := s.draw_eq; rw [h]; rfl
@[simp] theorem State.drawBytes_nvOptWp (k : Nat) : (s.drawBytes k).2.nvOptWp = s.nvOptWp := by
  obtain ⟨t, n, h⟩ := s.drawBytes_eq k; rw [h]; rfl
@[simp] theorem State.draw_nv : s.draw.2.nv = s.nv := by obtain ⟨t, n, h⟩ := s.draw_eq; rw [h]; rfl
@[simp] theorem State.drawBytes_nv (k : Nat) : (s.drawBytes k).2.nv = s.nv := by
  obtain ⟨t, n, h⟩ := s.drawBytes_eq k; rw [h]; rfl
@[simp] theorem State.draw_tgt : s.draw.2.tgt = s.tgt := by obtain ⟨t, n, h⟩ := s.draw_eq; rw [h]; rfl
@[simp] theorem State.drawBytes_tgt (k : Nat) : (s.drawBytes k).2.tgt = s.tgt := by
  obtain ⟨t, n, h⟩ := s.drawBytes_eq k; rw [h]; rfl
@[simp] theorem State.draw_progress : s.draw.2.progress = s.progress := by obtain ⟨t, n, h⟩ := s.draw_eq; rw [h]; rfl
@[simp] theorem State.drawBytes_progress (k : Nat) : (s.drawBytes k).2.progress = s.progress := by
  obtain ⟨t, n, h⟩ := s.drawBytes_eq k; rw [h]; rfl
@[simp] theorem State.draw_fftLen : s.draw.2.fftLen = s.fftLen := by obtain ⟨t, n, h⟩ := s.draw_eq; rw [h]; rfl
@[simp] theorem State.drawBytes_fftLen (k : Nat) : (s.drawBytes k).2.fftLen = s.fftLen := by
  obtain ⟨t, n, h⟩ := s.drawBytes_eq k; rw [h]; rfl
@[simp] theorem State.draw_hannLen : s.draw.2.hannLen = s.hannLen := by obtain ⟨t, n, h⟩ := s.draw_eq; rw [h]; rfl
@[simp] theorem State.drawBytes_hannLen (k : Nat) : (s.drawBytes k).2.hannLen = s.hannLen := by
  obtain ⟨t, n, h⟩ := s.drawBytes_eq k; rw [h]; rfl
@[simp] theorem State.draw_gz : s.draw.2.gz = s.gz := by obtain ⟨t, n, h⟩ := s.draw_eq; rw [h]; rfl
@[simp] theorem State.drawBytes_gz (k : Nat) : (s.drawBytes k).2.gz = s.gz := by
  obtain ⟨t, n, h⟩ := s.drawBytes_eq k; rw [h]; rfl
@[simp] theorem State.draw_bq : s.draw.2.bq = s.bq := by obtain ⟨t, n, h⟩ := s.draw_eq; rw [h]; rfl
@[simp] theorem State.drawBytes_bq (k : Nat) : (s.drawBytes k).2.bq = s.bq := by
  obtain ⟨t, n, h⟩ := s.drawBytes_eq k; rw [h]; rfl
@[simp] theorem State.draw_ema : s.draw.2.ema = s.ema := by obtain ⟨t, n, h⟩ := s.draw_eq; rw [h]; rfl
@[simp] theorem State.drawBytes_ema (k : Nat) : (s.drawBytes k).2.ema = s.ema := by
  obtain ⟨t, n, h⟩ := s.drawBytes_eq k; rw [h]; rfl
@[simp] theorem State.draw_notch : s.draw.2.notch = s.notch := by obtain ⟨t, n, h⟩ := s.draw_eq; rw [h]; rfl
@[simp] theorem State.drawBytes_notch (k : Nat) : (s.drawBytes k).2.notch = s.notch := by
  obtain ⟨t, n, h⟩ := s.drawBytes_eq k; rw [h]; rfl
@[simp] theorem State.draw_cb : s.draw.2.cb = s.cb := by obtain ⟨t, n, h⟩ := s.draw_eq; rw [h]; rfl
@[simp] theorem State.drawBytes_cb (k : Nat) : (s.drawBytes k).2.cb = s.cb := by
  obtain ⟨t, n, h⟩ := s.drawBytes_eq k; rw [h]; rfl
@[simp] theorem State.draw_ma : s.draw.2.ma = s.ma := by obtain ⟨t, n, h⟩ := s.draw_eq; rw [h]; rfl
@[simp] theorem State.drawBytes_ma (k : Nat) : (s.drawBytes k).2.ma = s.ma := by
  obtain ⟨t, n, h⟩ := s.drawBytes_eq k; rw [h]; rfl
@[simp] theorem State.draw_ring : s.draw.2.ring = s.ring := by obtain ⟨t, n, h⟩ := s.draw_eq; rw [h]; rfl
@[simp] theorem State.drawBytes_ring (k : Nat) : (s.drawBytes k).2.ring = s.ring := by
  obtain ⟨t, n, h⟩ := s.drawBytes_eq k; rw [h]; rfl
@[simp] theorem State.draw_xbuf : s.draw.2.xbuf = s.xbuf := by obtain ⟨t, n, h⟩ := s.draw_eq; rw [h]; rfl
@[simp] theorem State.drawBytes_xbuf (k : Nat) : (s.drawBytes k).2.xbuf = s.xbuf := by
  obtain ⟨t, n, h⟩ := s.drawBytes_eq k; rw [h]; rfl
@[simp] theorem State.draw_tab : s.draw.2.tab = s.tab := by obtain ⟨t, n, h⟩ := s.draw_eq; rw [h]; rfl
@[simp] theorem State.drawBytes_tab (k : Nat) : (s.drawBytes k).2.tab = s.tab := by
  obtain ⟨t, n, h⟩ := s.drawBytes_eq k; rw [h]; rfl
@[simp] theorem State.draw_hcoef : s.draw.2.hcoef = s.hcoef := by obtain ⟨t, n, h⟩ := s.draw_eq; rw [h]; rfl
@[simp] theorem State.drawBytes_hcoef (k : Nat) : (s.drawBytes k).2.hcoef = s.hcoef := by
  obtain ⟨t, n, h⟩ := s.drawBytes_eq k; rw [h]; rfl
@[simp] theorem State.draw_schedule : s.draw.2.schedule = s.schedule := by obtain ⟨t, n, h⟩ := s.draw_eq; rw [h]; rfl
@[simp] theorem State.drawBytes_schedule (k : Nat) : (s.drawBytes k).2.schedule = s.schedule := by
  obtain ⟨t, n, h⟩ := s.drawBytes_eq k; rw [h]; rfl
@[simp] theorem State.draw_turnCount : s.draw.2.turnCount = s.turnCount := by obtain ⟨t, n, h⟩ := s.draw_eq; rw [h]; rfl
@[simp] theorem State.drawBytes_turnCount (k : Nat) : (s.drawBytes k).2.turnCount = s.turnCount := by
  obtain ⟨t, n, h⟩ := s.drawBytes_eq k; rw [h]; rfl
@[simp] theorem State.draw_hostProgram : s.draw.2.hostProgram = s.hostProgram := by obtain ⟨t, n, h⟩ := s.draw_eq; rw [h]; rfl
@[simp] theorem State.drawBytes_hostProgram (k : Nat) : (s.drawBytes k).2.hostProgram = s.hostProgram := by
  obtain ⟨t, n, h⟩ := s.drawBytes_eq k; rw [h]; rfl
@[simp] theorem State.draw_hostPos : s.draw.2.hostPos = s.hostPos := by obtain ⟨t, n, h⟩ := s.draw_eq; rw [h]; rfl
@[simp] theorem State.drawBytes_hostPos (k : Nat) : (s.drawBytes k).2.hostPos = s.hostPos := by
  obtain ⟨t, n, h⟩ := s.drawBytes_eq k; rw [h]; rfl
@[simp] theorem State.draw_hostData : s.draw.2.hostData = s.hostData := by obtain ⟨t, n, h⟩ := s.draw_eq; rw [h]; rfl
@[simp] theorem State.drawBytes_hostData (k : Nat) : (s.drawBytes k).2.hostData = s.hostData := by
  obtain ⟨t, n, h⟩ := s.drawBytes_eq k; rw [h]; rfl

end Sys2Proof.Machine
end

