-- ==== Sys2Proof/Laws/Ops.lean ====
section
/-! SUPPORT. One lemma per shared operation that says once everything it can do: the operand reads, the guards, the common
forms of the commands, the NV micro-steps, the HOST accesses, the step. Proofs cite these and unfold none of them. -/

namespace Sys2Proof.Machine

/-- Ending a command writes `RC` and nothing else (R159). -/
@[simp] theorem State.finish_eq (s : State) (code : ResultCode) : s.finish code = .next { s with rc := code } := rfl

/-- A command that ends with a 64-bit value (R66). -/
@[simp] theorem State.finish64_eq (s : State) (r : BitVec 64) : s.finish64 r = .next { s.setRes64 r with rc := .ok } :=
  rfl

/-- A command that ends with a 32-bit value (R66). -/
@[simp] theorem State.finish32_eq (s : State) (r : Word) : s.finish32 r = .next { s.setRes 0 r with rc := .ok } := rfl

/-- A written operand is read (R17). -/
theorem State.withArg_of_written {s : State} {n : Fin 8} (h : s.args[n].written = true) (k : Word → Result) :
    s.withArg n k = k s.args[n].value := if_pos h

/-- An unwritten operand faults (R17). -/
theorem State.withArg_of_unwritten {s : State} {n : Fin 8} (h : s.args[n].written = false) (k : Word → Result) :
    s.withArg n k = .fault (.unwrittenArg (.command s.cmd)) :=
  if_neg (by rw [h]; decide)

/-- A command goes on past an operand read exactly when the operand is written. -/
theorem State.withArg_next {s t : State} {n : Fin 8} {k : Word → Result} :
    s.withArg n k = .next t ↔ s.args[n].written = true ∧ k s.args[n].value = .next t := by
  unfold State.withArg
  split <;> simp_all

/-- A command goes on past a data read exactly when the data are there. -/
theorem State.withData_next {α : Type} {s t : State} {x : Option α} {k : α → Result} :
    s.withData x k = .next t ↔ ∃ v, x = some v ∧ k v = .next t := by
  unfold State.withData State.dataFault
  cases x <;> simp

/-- Data that are there are used. -/
@[simp] theorem State.withData_some {α : Type} (s : State) (v : α) (k : α → Result) :
    s.withData (some v) k = k v := rfl

/-- Missing data fault (R161). -/
@[simp] theorem State.withData_none {α : Type} (s : State) (k : α → Result) :
    s.withData none k = .fault (.unwrittenData (.command s.cmd)) := rfl

/-- The accessor guard lets a half through exactly when a completion has been performed, the channel exists and the half
operand names a half (R76). -/
theorem State.accessorHalf_eq_some {s : State} {h : HalfSel} {c : Chan} {hf : Half} :
    s.accessorHalf h c = some hf ↔
      s.active ≠ .notAvailable ∧ c.toNat < s.acqC.toNat ∧ s.resolveHalf h = some hf := by
  unfold State.accessorHalf
  split
  · rename_i hg; rcases hg with hg | hg <;> simp [hg]
  · rename_i hg; simp only [not_or, not_le] at hg; simp [hg]

/-- The channel check without `ACTIVE` (R95, R96, R112, R115). -/
theorem State.channelHalf_eq_some {s : State} {h : HalfSel} {c : Chan} {hf : Half} :
    s.channelHalf h c = some hf ↔ c.toNat < s.acqC.toNat ∧ s.resolveHalf h = some hf := by
  unfold State.channelHalf
  split
  · rename_i hg; simp; omega
  · rename_i hg; simp only [not_le] at hg; simp [hg]

/-- An accessor answers its default or its work on the half the guard lets through (R76). -/
theorem State.accessor_cases (s : State) (h : HalfSel) (c : Chan) (dflt : Result) (work : Half → Result) :
    (s.accessorHalf h c = none ∧ s.accessor h c dflt work = dflt) ∨
      ∃ hf, s.accessorHalf h c = some hf ∧ s.accessor h c dflt work = work hf := by
  unfold State.accessor
  cases s.accessorHalf h c with
  | none => exact .inl ⟨rfl, rfl⟩
  | some hf => exact .inr ⟨hf, rfl, rfl⟩

/-- Storing a sample is storing its bytes; every other byte of the ring reads as before (R45). -/
theorem State.read_setSample (s : State) (h : Half) (i c : Nat) (v : Int) (a : Nat)
    (ha : a < s.sampleAddr h i c ∨ s.sampleAddr h i c + (s.sampleBytes v).length ≤ a) :
    Memory.read unwritten (s.setSample h i c v).ring a = Memory.read unwritten s.ring a := by
  rw [State.setSample_ring, Memory.read_setRange_outside ha]

theorem leBytes_length (n v : Nat) : (leBytes n v).length = n := by
  induction n generalizing v with
  | zero => rfl
  | succ n ih => simp [leBytes, ih]

/-- A sample is stored in W/8 bytes (R45). -/
@[simp] theorem State.sampleBytes_length (s : State) (v : Int) : (s.sampleBytes v).length = s.elemBytes :=
  leBytes_length _ _

/-- Little-endian bytes give the number back, modulo their range (R44). -/
theorem leNat_leBytes (n v : Nat) : leNat (leBytes n v) = v % 256 ^ n := by
  induction n generalizing v with
  | zero => simp [leBytes, leNat, Nat.mod_one]
  | succ n ih =>
    have h : (BitVec.ofNat 8 v).toNat = v % 256 := by simp
    rw [leBytes, leNat, h, ih, Nat.pow_succ, Nat.mul_comm (256 ^ n) 256, Nat.mod_mul]

/-- Samples survive a change of everything but the ring and the geometry. -/
theorem State.sample?_congr {s t : State} (hr : t.ring = s.ring) (hw : t.w32 = s.w32) (hc : t.acqC = s.acqC)
    (hs : t.acqS = s.acqS) (h : Half) (i c : Nat) : t.sample? h i c = s.sample? h i c := by
  simp only [State.sample?, State.sampleAddr, State.elemIndex, State.halfElems, State.elemBytes, State.width, hr, hw, hc, hs]

/-- A sample cannot be read exactly when one of its bytes is unwritten (R45). -/
theorem State.sample?_eq_none {s : State} {h : Half} {i c : Nat} :
    s.sample? h i c = none ↔
      ∃ k, k < s.elemBytes ∧ Memory.read unwritten s.ring (s.sampleAddr h i c + k) = none := by
  rw [← Memory.readBytes_eq_none]
  unfold State.sample?
  split <;> simp_all

/-- Consecutive samples cannot be read exactly when one of them cannot. -/
theorem State.samples?_eq_none {s : State} {h : Half} {c lo n : Nat} :
    s.samples? h c lo n = none ↔ ∃ i, i < n ∧ s.sample? h (lo + i) c = none := by
  induction n generalizing lo with
  | zero => simp [State.samples?]
  | succ n ih =>
    have hx : s.samples? h c lo (n + 1) = none ↔ s.sample? h lo c = none ∨ s.samples? h c (lo + 1) n = none := by
      rw [State.samples?]
      cases s.sample? h lo c <;> cases s.samples? h c (lo + 1) n <;> simp
    rw [hx, ih]
    constructor
    · rintro (h | ⟨k, hk, h⟩)
      · exact ⟨0, by omega, h⟩
      · exact ⟨k + 1, by omega, by rw [← h]; congr 1; omega⟩
    · rintro ⟨k, hk, h⟩
      cases k with
      | zero => exact .inl h
      | succ k => exact .inr ⟨k, by omega, by rw [← h]; congr 1; omega⟩

/-- A query over the elements of a circular-buffer slot (R118–R121, R126, R127). -/
theorem State.cbQuery_next {s t : State} {j : Slot} {value : CircBuf → Nat → F32} (h : s.cbQuery j value = .next t) :
    s.args[(0 : Fin 8)].written = true ∧
      ((s.cbSlot j).len = 0 ∧ t = { s with rc := .notInit } ∨
       (s.cbSlot j).len ≠ 0 ∧ (u32 s.args[(0 : Fin 8)].value = 0 ∨ (s.cbSlot j).len < u32 s.args[(0 : Fin 8)].value) ∧
         t = { s with rc := .arg } ∨
       t = { s.setRes 0 (value (s.cbSlot j) (u32 s.args[(0 : Fin 8)].value)) with rc := .ok }) := by
  obtain ⟨hw, h⟩ := State.withArg_next.mp h
  refine ⟨hw, ?_⟩
  simp only [State.finish_eq, State.finish32_eq] at h
  split at h
  · rename_i h0; exact .inl ⟨h0, by simpa using h.symm⟩
  · rename_i h0
    split at h
    · rename_i h1; exact .inr (.inl ⟨h0, h1, by simpa using h.symm⟩)
    · exact .inr (.inr (by simpa using h.symm))

/-- A moving-average step (R130–R132). -/
theorem State.maStep_next {s t : State} {j : Slot} {value : MovAvg → F32} (h : s.maStep j value = .next t) :
    s.args[(0 : Fin 8)].written = true ∧
      ((s.maSlot j).cb.len = 0 ∧ t = { s with rc := .notInit } ∨
       (s.maSlot j).cb.len ≠ 0 ∧
         t = { (s.setMa j ((s.maSlot j).push (f32 s.args[(0 : Fin 8)].value))).setRes 0
                 (value ((s.maSlot j).push (f32 s.args[(0 : Fin 8)].value))) with rc := .ok }) := by
  obtain ⟨hw, h⟩ := State.withArg_next.mp h
  refine ⟨hw, ?_⟩
  simp only [State.finish_eq, State.finish32_eq] at h
  split at h
  · rename_i h0; exact .inl ⟨h0, by simpa using h.symm⟩
  · rename_i h0; exact .inr ⟨h0, by simpa using h.symm⟩

/-- A biquad design init (R100–R102). -/
theorem State.biquadInit_next {s t : State} {j : Slot} {shape : BiquadDesign → Biquad}
    (h : s.biquadInit j shape = .next t) :
    t = { s.setBq j (shape (biquadDesign (f64 s.args[(0 : Fin 8)].value) (f64 s.args[(1 : Fin 8)].value)
            (f64 s.args[(2 : Fin 8)].value))) with rc := .ok } := by
  obtain ⟨-, h⟩ := State.withArg_next.mp h
  obtain ⟨-, h⟩ := State.withArg_next.mp h
  obtain ⟨-, h⟩ := State.withArg_next.mp h
  simpa using h.symm

/-- A CRC command (R133): a bad range or length, or a checksum of written bytes in `RES0`. -/
theorem State.crcCommand_next {s t : State} {lenOk : Nat → Bool} {value : List Byte → Word}
    (h : s.crcCommand lenOk value = .next t) :
    t = { s with rc := .arg } ∨
      ∃ bs, s.xbufBytes? (u32 s.args[(0 : Fin 8)].value) (u32 s.args[(1 : Fin 8)].value) = some bs ∧
        t = { s.setRes 0 (value bs) with rc := .ok } := by
  obtain ⟨-, h⟩ := State.withArg_next.mp h
  obtain ⟨-, h⟩ := State.withArg_next.mp h
  simp only [State.finish_eq, State.finish32_eq] at h
  split at h
  · exact .inl (by simpa using h.symm)
  · split at h
    · exact .inl (by simpa using h.symm)
    · obtain ⟨bs, hb, h⟩ := State.withData_next.mp h
      exact .inr ⟨bs, hb, by simpa using h.symm⟩

/-- What `NvErase` can do (R140): refuse, fail with drawn bytes, or erase. -/
theorem State.nvEraseStep_cases (s : State) (k : Nat) :
    ((s.lock = true ∨ s.wpBit k = true) ∧ s.nvEraseStep k = (s, false)) ∨
    (s.lock = false ∧ s.wpBit k = false ∧ ∃ t n bs ok, bs.length = s.cfg.sz k ∧
      (ok = true → bs = List.replicate (s.cfg.sz k) 0xFF) ∧
      s.nvEraseStep k =
        (((s.setTgt (.bytes (s.cfg.sb k) (s.cfg.sz k))).withDraws t n).setNv (s.cfg.sb k) bs, ok)) := by
  unfold State.nvEraseStep
  by_cases hg : (s.lock || s.wpBit k) = true
  · left; rw [if_pos hg]; exact ⟨by simpa using hg, rfl⟩
  · right
    have hg' : s.lock = false ∧ s.wpBit k = false := by simpa using hg
    refine ⟨hg'.1, hg'.2, ?_⟩
    rw [if_neg hg]
    simp only [State.drawBool_snd]
    generalize s.setTgt (.bytes (s.cfg.sb k) (s.cfg.sz k)) = u
    obtain ⟨t1, n1, h1⟩ := u.draw_eq
    obtain ⟨t2, n2, h2⟩ := u.draw.2.drawBytes_eq (s.cfg.sz k)
    split
    · refine ⟨t2, n2, (u.draw.2.drawBytes (s.cfg.sz k)).1, false, State.drawBytes_length _ _, fun h => absurd h (by decide), ?_⟩
      rw [h2, show u.draw.2.withDraws t2 n2 = u.withDraws t2 n2 from by rw [h1]; rfl]
    · exact ⟨t1, n1, _, true, List.length_replicate, fun _ => rfl, by rw [h1]⟩

/-- What `NvProgram` can do (R140): refuse, store drawn bytes, or program; a program that succeeds on erased bytes stores
its bytes. -/
theorem State.nvProgramStep_cases (s : State) (a : Nat) (v : List Byte) :
    ((s.lock = true ∨ s.wpBit (s.sectorOf a) = true) ∧ s.nvProgramStep a v = (s, false)) ∨
    (s.lock = false ∧ s.wpBit (s.sectorOf a) = false ∧ ∃ t n bs ok, bs.length = v.length ∧
      (ok = true → (∀ b ∈ s.nvBytes a v.length, b = 0xFF) → bs = v) ∧
      s.nvProgramStep a v = (((s.setTgt (.bytes a v.length)).withDraws t n).setNv a bs, ok)) := by
  have hcongr : ∀ n x, (s.setTgt (.bytes a v.length)).nvBytes x n = s.nvBytes x n := by
    intro n
    induction n with
    | zero => intro x; rfl
    | succ n ih => intro x; simp only [State.nvBytes, ih]; rfl
  unfold State.nvProgramStep
  by_cases hg : (s.lock || s.wpBit (s.sectorOf a)) = true
  · left; rw [if_pos hg]; exact ⟨by simpa using hg, rfl⟩
  · right
    have hg' : s.lock = false ∧ s.wpBit (s.sectorOf a) = false := by simpa using hg
    refine ⟨hg'.1, hg'.2, ?_⟩
    rw [if_neg hg]
    have hb := hcongr v.length a
    simp only [State.drawBool_snd]
    generalize s.setTgt (.bytes a v.length) = u at hb ⊢
    obtain ⟨t1, n1, h1⟩ := u.draw_eq
    obtain ⟨t2, n2, h2⟩ := u.drawBytes_eq v.length
    obtain ⟨t3, n3, h3⟩ := u.draw.2.drawBytes_eq v.length
    split
    · rename_i hd
      rw [hb] at hd
      obtain ⟨t4, n4, h4⟩ := ((u.drawBytes v.length).2.setNv a (u.drawBytes v.length).1).draw_eq
      refine ⟨t4, n4, (u.drawBytes v.length).1,
        ((u.drawBytes v.length).2.setNv a (u.drawBytes v.length).1).drawBool.1, State.drawBytes_length _ _, fun _ hff => ?_, ?_⟩
      · obtain ⟨b, hmem, hne⟩ := List.any_eq_true.mp hd
        have hbad : b ≠ 0xFF := by simpa using hne
        exact absurd (hff b hmem) hbad
      · rw [h4, show (((u.drawBytes v.length).2.setNv a (u.drawBytes v.length).1).withDraws t4 n4) =
          (u.withDraws t4 n4).setNv a (u.drawBytes v.length).1 from by rw [h2]; rfl]
    · split
      · refine ⟨t3, n3, (u.draw.2.drawBytes v.length).1, false, State.drawBytes_length _ _, fun h => absurd h (by decide), ?_⟩
        rw [h3, show u.draw.2.withDraws t3 n3 = u.withDraws t3 n3 from by rw [h1]; rfl]
      · exact ⟨t1, n1, v, true, rfl, fun _ _ => rfl, by rw [h1]⟩

/-- What `OptWrite` can do (R140): refuse, or write the stored bit (the given one when it succeeds). -/
theorem State.optWriteStep_cases (s : State) (k : Nat) (bit : Bool) :
    (s.oblock = true ∧ s.optWriteStep k bit = (s, false)) ∨
    (s.oblock = false ∧ ∃ t n b ok, (ok = true → b = bit) ∧
      s.optWriteStep k bit =
        (((s.setTgt (.optBit k)).withDraws t n).setOptWp (setBit s.nvOptWp k b), ok)) := by
  unfold State.optWriteStep
  by_cases hg : s.oblock = true
  · left; rw [if_pos hg]; exact ⟨hg, rfl⟩
  · right
    refine ⟨by simpa using hg, ?_⟩
    rw [if_neg hg]
    generalize s.setTgt (.optBit k) = u
    obtain ⟨t1, n1, h1⟩ := u.draw_eq
    obtain ⟨t2, n2, h2⟩ := u.draw.2.draw_eq
    simp only [State.drawBool_snd]
    split
    · refine ⟨t2, n2, u.draw.2.drawBool.1, false, fun h => absurd h (by decide), ?_⟩
      rw [h2, show u.draw.2.withDraws t2 n2 = u.withDraws t2 n2 from by rw [h1]; rfl]
    · exact ⟨t1, n1, bit, true, fun _ => rfl, by rw [h1]⟩

/-- What `OptLaunch` can do (R140): refuse, fail, or load the stored options. -/
theorem State.optLaunchStep_cases (s : State) :
    (s.oblock = true ∧ s.optLaunchStep = (s, false)) ∨
    (s.oblock = false ∧ ∃ t n ok,
      s.optLaunchStep = ((s.withDraws t n).setWp (if ok then s.nvOptWp else s.nvWp), ok)) := by
  unfold State.optLaunchStep
  by_cases hg : s.oblock = true
  · left; rw [if_pos hg]; exact ⟨hg, rfl⟩
  · right
    refine ⟨by simpa using hg, ?_⟩
    rw [if_neg hg]
    obtain ⟨t1, n1, h1⟩ := s.draw_eq
    simp only [State.drawBool_snd]
    split
    · exact ⟨t1, n1, false, by rw [h1]; rfl⟩
    · exact ⟨t1, n1, true, by rw [h1]; rfl⟩

/-- A command made of one micro-step ends OK or WRITE_FAIL. -/
@[simp] theorem finishStep_eq (r : State × Bool) :
    finishStep r = .next { r.1 with rc := if r.2 then .ok else .writeFail } := by
  unfold finishStep; rfl

/-- After a micro-step a composite goes on, or ends with WRITE_FAIL. -/
theorem Progress.continueComposite_cases (p : Progress) (r : State × Bool) (onFail : State → State) :
    (r.2 = true ∧ p.continueComposite r onFail = .next { r.1 with progress := some { p with index := p.index + 1 } }) ∨
    (r.2 = false ∧
      p.continueComposite r onFail = .next { onFail r.1 with progress := none, rc := .writeFail }) := by
  unfold Progress.continueComposite
  cases h : r.2 with
  | true => exact .inl ⟨rfl, rfl⟩
  | false => exact .inr ⟨rfl, rfl⟩

/-- Where an access that does not fault goes (R43, R46, R48): a register at its own offset, or aligned bytes inside a
window's extent. -/
theorem State.locate_ok {s : State} {off : Int} {w : Width} {p : Place} (h : s.locate off w = .ok p) :
    (∃ r, p = .reg r ∧ w = .w4 ∧ off.toNat % 4 = 0 ∧ registerAt off.toNat = some r ∧ 0 ≤ off ∧ off < 0x100) ∨
    (∃ win rel, p = .win win rel ∧ windowAt off.toNat = some (win, rel) ∧ rel + w.bytes ≤ s.extent win ∧
      rel % w.bytes = 0 ∧ 0x100 ≤ off) := by
  unfold State.locate at h
  split at h
  · simp at h
  · split at h
    · split at h
      · simp at h
      · rename_i r hr
        split at h
        · simp at h
        · rename_i hw
          split at h
          · simp at h
          · rename_i h4
            simp only [ne_eq, Decidable.not_not] at hw h4
            refine .inl ⟨r, by simpa using h.symm, hw, h4, ?_, by omega, by omega⟩
            have : off.toNat / 4 * 4 = off.toNat := by omega
            rw [← this]; exact hr
    · split at h
      · simp at h
      · rename_i win rel hwin
        split at h
        · simp at h
        · split at h
          · simp at h
          · rename_i hx hm
            simp only [ne_eq, Decidable.not_not] at hm
            exact .inr ⟨win, rel, by simpa using h.symm, hwin, by omega, hm, by omega⟩

/-- Taking a turn uses up the schedule or counts a free choice, and changes nothing else (R16). -/
theorem State.takeTurn_eq (s : State) : ∃ l n, s.takeTurn.2 = { s with schedule := l, turnCount := n } := by
  unfold State.takeTurn; split
  · exact ⟨_, _, rfl⟩
  · exact ⟨_, _, rfl⟩

/-- A scheduled turn. -/
theorem State.takeTurn_cons {s : State} {t : Turn} {l : List Turn} (h : s.schedule = t :: l) :
    s.takeTurn = (t, { s with schedule := l }) := by simp [State.takeTurn, h]

/-- An agent that is not enabled lets its turn pass. -/
theorem State.runTurn_of_disabled {s : State} {t : Turn} (h : s.enabled t = false) : s.runTurn t = .next s := by
  simp [State.runTurn, h]

/-- An enabled agent takes its step. -/
theorem State.runTurn_of_enabled {s : State} {t : Turn} (h : s.enabled t = true) : s.runTurn t = s.agentStep t := by
  simp [State.runTurn, h]

/-- Everything a step can do: the turn passes, or one of the five agent steps is taken. -/
theorem step_cases (s : State) :
    (s.takeTurn.2.enabled s.takeTurn.1 = false ∧ step s = .next s.takeTurn.2) ∨
    (s.takeTurn.1 = .host ∧ s.takeTurn.2.progress = none ∧
      ∃ line, s.takeTurn.2.hostLine? = some line ∧ step s = s.takeTurn.2.clearTgt.hostStep line) ∨
    (s.takeTurn.1 = .cmdu ∧ ∃ p, s.takeTurn.2.progress = some p ∧ step s = s.takeTurn.2.clearTgt.microStep p) ∨
    (s.takeTurn.1 = .produce ∧ s.takeTurn.2.prodFree = true ∧ s.takeTurn.2.armed = true ∧
      step s = .next s.takeTurn.2.clearTgt.produceStep) ∨
    (s.takeTurn.1 = .complete ∧ s.takeTurn.2.prodFree = true ∧ s.takeTurn.2.fifo ≠ [] ∧
      step s = .next s.takeTurn.2.clearTgt.completeStep) ∨
    (s.takeTurn.1 = .powerLoss ∧ step s = .next s.takeTurn.2.powerLossStep) := by
  unfold step
  generalize s.takeTurn.1 = t
  generalize s.takeTurn.2 = u
  cases he : u.enabled t with
  | false => exact .inl ⟨rfl, State.runTurn_of_disabled he⟩
  | true =>
    rw [State.runTurn_of_enabled he]
    right
    cases t with
    | host =>
      simp only [State.enabled, Bool.and_eq_true, Option.isNone_iff_eq_none, Option.isSome_iff_exists] at he
      obtain ⟨hp, line, hl⟩ := he
      exact .inl ⟨rfl, hp, line, hl, by simp [State.agentStep, hl]⟩
    | cmdu =>
      obtain ⟨p, hp⟩ := Option.isSome_iff_exists.mp he
      exact .inr (.inl ⟨rfl, p, hp, by simp [State.agentStep, hp]⟩)
    | produce =>
      simp only [State.enabled, Bool.and_eq_true] at he
      exact .inr (.inr (.inl ⟨rfl, he.1, he.2, rfl⟩))
    | complete =>
      simp only [State.enabled, Bool.and_eq_true] at he
      exact .inr (.inr (.inr (.inl ⟨rfl, he.1, by simpa using he.2, rfl⟩)))
    | powerLoss => exact .inr (.inr (.inr (.inr ⟨rfl, rfl⟩)))

/-- PROD may step where no composite is in progress, or where the parameter says so. -/
theorem State.prodFree_iff {s : State} : s.prodFree = true ↔ s.progress = none ∨ s.cfg.prodInComposites = true := by
  simp [State.prodFree]

/-- While a composite is in progress, CMDU and ENV are enabled, HOST is not (R16, R39), and PROD is as outside it if the
parameter says so (R185), else not (R15). -/
theorem State.enabled_in_composite {s : State} {p : Progress} (h : s.progress = some p) :
    s.enabled .cmdu = true ∧ s.enabled .powerLoss = true ∧ s.enabled .host = false ∧
      s.enabled .produce = (s.cfg.prodInComposites && s.armed) ∧
      s.enabled .complete = (s.cfg.prodInComposites && !s.fifo.isEmpty) := by
  simp [State.enabled, State.prodFree, h]

/-- A run that is over takes no step (R176). -/
theorem State.run_of_over {s : State} (h : s.over = true) (n : Nat) : s.run n = .ended s := by
  cases n <;> simp [State.run, h]

/-- A run that is not over goes on from where its step leads. -/
theorem State.run_succ_next {s t : State} (h : s.over = false) (hs : step s = .next t) (n : Nat) :
    s.run (n + 1) = t.run n := by simp [State.run, h, hs]

/-- A run that is not over ends at the fault its step raises, in the state before that step (R161, R176). -/
theorem State.run_succ_fault {s : State} {f : Fault} (h : s.over = false) (hs : step s = .fault f) (n : Nat) :
    s.run (n + 1) = .faulted f s := by simp [State.run, h, hs]

end Sys2Proof.Machine
end

