-- ==== Sys2Proof/Laws/PerInstr.lean ====
section
/-! SUPPORT. Laws of the encoding, stated per instruction: the fields an instruction is encoded with decode to it. -/

namespace Sys2Proof.Laws

/-- The bits of a half selector name it. -/
theorem halfSelOf_bits (h : HalfSel) : halfSelOf h.bits = some h := by cases h <;> rfl

/-- The bits of a word put together from its fields (R59). -/
theorem getLsbD_toWord (f : Fields) (i : Nat) :
    f.toWord.getLsbD i =
      if i < 8 then f.op.getLsbD i
      else if i < 10 then f.half.getLsbD (i - 8)
      else if i < 11 then f.f0.getLsbD (i - 10)
      else if i < 12 then f.f1.getLsbD (i - 11)
      else if i < 16 then f.slot.getLsbD (i - 12)
      else f.ch.getLsbD (i - 16) := by
  show BitVec.getLsbD (w := 16 + 4 + 1 + 1 + 2 + 8) (f.ch ++ f.slot ++ f.f1 ++ f.f0 ++ f.half ++ f.op) i = _
  simp only [BitVec.getLsbD_append]
  split_ifs <;> first | rfl | omega

/-- Taking a word apart undoes putting it together (R59). -/
theorem fields_ofWord_toWord (f : Fields) : Fields.ofWord f.toWord = f := by
  obtain ⟨op, half, f0, f1, slot, ch⟩ := f
  simp only [Fields.ofWord, Fields.mk.injEq]
  refine ⟨?_, ?_, ?_, ?_, ?_, ?_⟩ <;> apply BitVec.eq_of_getLsbD_eq <;> intro i hi <;>
    rw [BitVec.getLsbD_extractLsb', getLsbD_toWord]
  · have e1 : 0 + i < 8 := by omega
    simp [hi]
  · have e1 : ¬(8 + i < 8) := by omega
    have e2 : 8 + i < 10 := by omega
    have e : 8 + i - 8 = i := by omega
    simp only [hi, e1, e2, e, decide_true, Bool.true_and, if_true, if_false]
  · have e1 : ¬(10 + i < 8) := by omega
    have e2 : ¬(10 + i < 10) := by omega
    have e3 : 10 + i < 11 := by omega
    have e : 10 + i - 10 = i := by omega
    simp only [hi, e1, e2, e3, e, decide_true, Bool.true_and, if_true, if_false]
  · have e1 : ¬(11 + i < 8) := by omega
    have e2 : ¬(11 + i < 10) := by omega
    have e3 : ¬(11 + i < 11) := by omega
    have e4 : 11 + i < 12 := by omega
    have e : 11 + i - 11 = i := by omega
    simp only [hi, e1, e2, e3, e4, e, decide_true, Bool.true_and, if_true, if_false]
  · have e1 : ¬(12 + i < 8) := by omega
    have e2 : ¬(12 + i < 10) := by omega
    have e3 : ¬(12 + i < 11) := by omega
    have e4 : ¬(12 + i < 12) := by omega
    have e5 : 12 + i < 16 := by omega
    have e : 12 + i - 12 = i := by omega
    simp only [hi, e1, e2, e3, e4, e5, e, decide_true, Bool.true_and, if_true, if_false]
  · have e1 : ¬(16 + i < 8) := by omega
    have e2 : ¬(16 + i < 10) := by omega
    have e3 : ¬(16 + i < 11) := by omega
    have e4 : ¬(16 + i < 12) := by omega
    have e5 : ¬(16 + i < 16) := by omega
    have e : 16 + i - 16 = i := by omega
    simp only [hi, e1, e2, e3, e4, e5, e, decide_true, Bool.true_and, if_false]

namespace DecodeFields

/-- The fields of an instruction decode to it (R59, R67, R68). -/
def Statement (i : Instr) : Prop := decodeFields i.fields = some i

theorem acqInit : Statement .acqInit := rfl
theorem acqLoop : Statement .acqLoop := rfl
theorem acqMean (h : HalfSel) (c : Chan) : Statement (.acqMean h c) := by cases h <;> rfl
theorem acqMeanLim (h : HalfSel) (c : Chan) : Statement (.acqMeanLim h c) := by cases h <;> rfl
theorem acqMeanShift (h : HalfSel) (c : Chan) : Statement (.acqMeanShift h c) := by cases h <;> rfl
theorem acqAbsMean (h : HalfSel) (c : Chan) : Statement (.acqAbsMean h c) := by cases h <;> rfl
theorem acqRms (h : HalfSel) (c : Chan) : Statement (.acqRms h c) := by cases h <;> rfl
theorem acqTrueRms (h : HalfSel) (c : Chan) : Statement (.acqTrueRms h c) := by cases h <;> rfl
theorem acqMax (h : HalfSel) (c : Chan) : Statement (.acqMax h c) := by cases h <;> rfl
theorem acqMin (h : HalfSel) (c : Chan) : Statement (.acqMin h c) := by cases h <;> rfl
theorem acqSetOffset (h : HalfSel) (c : Chan) : Statement (.acqSetOffset h c) := by cases h <;> rfl
theorem acqCma (h : HalfSel) (c : Chan) : Statement (.acqCma h c) := by cases h <;> rfl
theorem acqPeakFwd (h : HalfSel) (c : Chan) : Statement (.acqPeakFwd h c) := by cases h <;> rfl
theorem acqPeakRev (h : HalfSel) (c : Chan) : Statement (.acqPeakRev h c) := by cases h <;> rfl
theorem acqSineWin (h : HalfSel) (c : Chan) : Statement (.acqSineWin h c) := by cases h <;> rfl
theorem hannInit : Statement .hannInit := rfl
theorem hannApply (h : HalfSel) (c : Chan) : Statement (.hannApply h c) := by cases h <;> rfl
theorem hannDirect (h : HalfSel) (c : Chan) : Statement (.hannDirect h c) := by cases h <;> rfl
theorem bqInitBp (j : Slot) : Statement (.bqInitBp j) := rfl
theorem bqInitBs (j : Slot) : Statement (.bqInitBs j) := rfl
theorem bqInitLp (j : Slot) : Statement (.bqInitLp j) := rfl
theorem bqLoad (j : Slot) : Statement (.bqLoad j) := rfl
theorem bqStep (j : Slot) : Statement (.bqStep j) := rfl
theorem emaInitFc (j : Slot) : Statement (.emaInitFc j) := rfl
theorem emaInitAlpha (j : Slot) : Statement (.emaInitAlpha j) := rfl
theorem emaStep (j : Slot) : Statement (.emaStep j) := rfl
theorem notchInit (j : Slot) : Statement (.notchInit j) := rfl
theorem notchStep (j : Slot) : Statement (.notchStep j) := rfl
theorem cbInit (j : Slot) : Statement (.cbInit j) := rfl
theorem cbPush (j : Slot) : Statement (.cbPush j) := rfl
theorem cbGet (j : Slot) : Statement (.cbGet j) := rfl
theorem cbMean (j : Slot) : Statement (.cbMean j) := rfl
theorem cbMax (j : Slot) : Statement (.cbMax j) := rfl
theorem arrMax (j : Slot) : Statement (.arrMax j) := rfl
theorem arrMin (j : Slot) : Statement (.arrMin j) := rfl
theorem arrSum (j : Slot) : Statement (.arrSum j) := rfl
theorem arrMean (j : Slot) : Statement (.arrMean j) := rfl
theorem maInit (j : Slot) : Statement (.maInit j) := rfl
theorem maMean (j : Slot) : Statement (.maMean j) := rfl
theorem maVar (j : Slot) : Statement (.maVar j) := rfl
theorem maStd (j : Slot) : Statement (.maStd j) := rfl
theorem gzInit : Statement .gzInit := rfl
theorem gzFeed (h : HalfSel) (c : Chan) : Statement (.gzFeed h c) := by cases h <;> rfl
theorem fftInit : Statement .fftInit := rfl
theorem fftRun (h : HalfSel) (c : Chan) : Statement (.fftRun h c) := by cases h <;> rfl
theorem fftAbsMax (f0 : Bool) : Statement (.fftAbsMax f0) := by cases f0 <;> rfl
theorem crc4 : Statement .crc4 := rfl
theorem crc8 : Statement .crc8 := rfl
theorem crc32 : Statement .crc32 := rfl
theorem nvUnlock : Statement .nvUnlock := rfl
theorem nvLock : Statement .nvLock := rfl
theorem nvObUnlock : Statement .nvObUnlock := rfl
theorem nvObLock : Statement .nvObLock := rfl
theorem nvWpSet (f0 : Bool) : Statement (.nvWpSet f0) := by cases f0 <;> rfl
theorem nvObLaunch : Statement .nvObLaunch := rfl
theorem nvErase : Statement .nvErase := rfl
theorem nvProgByte : Statement .nvProgByte := rfl
theorem nvProgWord : Statement .nvProgWord := rfl
theorem nvReadByte : Statement .nvReadByte := rfl
theorem nvRead (f0 : Bool) : Statement (.nvRead f0) := by cases f0 <;> rfl
theorem nvWrite (f0 : Bool) : Statement (.nvWrite f0) := by cases f0 <;> rfl
theorem otpRead : Statement .otpRead := rfl
theorem otpWrite : Statement .otpWrite := rfl

end DecodeFields

end Sys2Proof.Laws
end

