-- ==== Sys2Proof/Tests/Slice0.lean ====
section
/-! SUPPORT. Tests of one step each against the worked examples and vectors of 95_test_vectors.md, and for every statement
with hypotheses a witness that meets them. -/

namespace Sys2Proof.Tests

open Sys2Proof.Machine

-- Many short kernel evaluations at once would start a thread each.
set_option Elab.async false

/-! ## Helpers -/

/-- The parameters of the test programs with small sectors, delivered erased. -/
def cfg0 : Params := { Params.testPrograms with sectorSizes := [0x24, 0x204, 0x10, 0x8], nvDelivered := some 0xFF }

/-- Right after power-on, no sector protected. -/
def base : State := .powerUp cfg0 [] 0 [] 0 [] 0 []

/-- HOST wrote `vs` to `ARGn`, `ARGn+1`, … -/
def putArgs : Nat → List Word → State → State
  | _, [], s => s
  | n, v :: vs, s => putArgs (n + 1) vs { s with args := s.args.setIfInBounds n ⟨v, true⟩ }

/-- HOST wrote `vs` to `ARG0`, `ARG1`, … -/
def putArg (vs : List Word) (s : State) : State := putArgs 0 vs s

/-- One channel of 16-bit samples in half `First`, which has been completed and delivered. -/
def acq1 (xs : List Int) : State :=
  { base with
    acqC := 1, acqS := BitVec.ofNat 32 xs.length, armed := true, active := .first, last := .first
    wptr := BitVec.ofNat 32 xs.length
    ring := cellsAt 0 (xs.flatMap fun x => leBytes 2 (x % 65536).toNat) }

/-- The same with 32-bit samples. -/
def acq32 (xs : List Int) : State :=
  { acq1 xs with w32 := true, ring := cellsAt 0 (xs.flatMap fun x => leBytes 4 (x % 4294967296).toNat) }

/-- XBUF with bytes from offset 0 on. -/
def putXbuf (bs : List Byte) (s : State) : State := { s with xbuf := cellsAt 0 bs }

/-- What a test looks at in the next state. -/
def see {α : Type} (f : State → α) : Result → Option α
  | .next t => some (f t)
  | .fault _ => none
  | .refused _ => none

/-- The result code and `RES0`. -/
def res0 (t : State) : ResultCode × Word := (t.rc, t.res[0].value)

/-- The result code and `RES1`:`RES0`. -/
def res64 (t : State) : ResultCode × BitVec 64 := (t.rc, t.res[1].value ++ t.res[0].value)

/-- The samples of channel 0 in half `First`. -/
def channel (t : State) : Option (List Int) := t.samples? .first 0 0 t.acqS.toNat

/-- The fault of a result. -/
def faultOf : Result → Option Fault
  | .next _ => none
  | .fault f => some f
  | .refused _ => none

/-! ## Decoding: words written out from R59 and R67, with `HALF` = 2, `CH` = 5, `SLOT` = 3 where the row has them -/

theorem test_decode_acq :
    [0x00000001, 0x00000002, 0x00050203, 0x00050204, 0x00050205, 0x00050206, 0x00050207, 0x00050208, 0x00050209,
      0x0005020A, 0x0005020B, 0x0005020C, 0x0005020D, 0x0005020E, 0x0005020F].map decodeWord =
    [.acqInit, .acqLoop, .acqMean .last 5, .acqMeanLim .last 5, .acqMeanShift .last 5, .acqAbsMean .last 5,
      .acqRms .last 5, .acqTrueRms .last 5, .acqMax .last 5, .acqMin .last 5, .acqSetOffset .last 5, .acqCma .last 5,
      .acqPeakFwd .last 5, .acqPeakRev .last 5, .acqSineWin .last 5].map some := by decide +kernel

theorem test_decode_hann :
    [0x00000020, 0x00050221, 0x00050222].map decodeWord =
      [.hannInit, .hannApply .last 5, .hannDirect .last 5].map some := by decide +kernel

theorem test_decode_iir :
    [0x00003030, 0x00003031, 0x00003032, 0x00003033, 0x00003034, 0x00003038, 0x00003039, 0x0000303A, 0x0000303C,
      0x0000303D].map decodeWord =
    [.bqInitBp 3, .bqInitBs 3, .bqInitLp 3, .bqLoad 3, .bqStep 3, .emaInitFc 3, .emaInitAlpha 3, .emaStep 3,
      .notchInit 3, .notchStep 3].map some := by decide +kernel

theorem test_decode_fir :
    [0x00003040, 0x00003041, 0x00003042, 0x00003043, 0x00003044, 0x00003045, 0x00003046, 0x00003047, 0x00003048,
      0x00003049, 0x0000304A, 0x0000304B, 0x0000304C].map decodeWord =
    [.cbInit 3, .cbPush 3, .cbGet 3, .cbMean 3, .cbMax 3, .arrMax 3, .arrMin 3, .arrSum 3, .arrMean 3, .maInit 3,
      .maMean 3, .maVar 3, .maStd 3].map some := by decide +kernel

theorem test_decode_gz_fft_crc :
    [0x00000050, 0x00050251, 0x00000060, 0x00050261, 0x00000062, 0x00000462, 0x00000070, 0x00000071,
      0x00000072].map decodeWord =
    [.gzInit, .gzFeed .last 5, .fftInit, .fftRun .last 5, .fftAbsMax false, .fftAbsMax true, .crc4, .crc8,
      .crc32].map some := by decide +kernel

theorem test_decode_nv :
    [0x00000080, 0x00000081, 0x00000082, 0x00000083, 0x00000084, 0x00000484, 0x00000085, 0x00000086, 0x00000087,
      0x00000088, 0x00000089, 0x0000008A, 0x0000048A, 0x0000008B, 0x0000048B, 0x0000008C, 0x0000008D].map decodeWord =
    [.nvUnlock, .nvLock, .nvObUnlock, .nvObLock, .nvWpSet false, .nvWpSet true, .nvObLaunch, .nvErase, .nvProgByte,
      .nvProgWord, .nvReadByte, .nvRead false, .nvRead true, .nvWrite false, .nvWrite true, .otpRead,
      .otpWrite].map some := by decide +kernel

/-- 95_test_vectors.md section 2.1: the words that are ILLEGAL. -/
theorem test_decode_illegal :
    [0x00000000, 0x00000303, 0x00000403, 0x00000801, 0x00010001, 0x0000008E, 0x000000FF, 0x0000F034].map (decode cfg0) =
      [none, none, none, none, none, none, none, none] := by decide +kernel

/-- The host's reading of a table word: the same commands. -/
theorem test_decodeTableWord : decodeTableWord 32 0x00010261 = some (.fftRun .last 1) ∧ decodeTableWord 8 0x01 =
    some .acqInit := by decide +kernel

/-! ## WellFormed: for each slot kind, the first slot the block does not have -/

theorem test_wf_refuses_biquad : (Instr.bqStep 4).wf cfg0 = false := by decide +kernel
theorem test_wf_refuses_ema : (Instr.emaStep 4).wf cfg0 = false := by decide +kernel
theorem test_wf_refuses_notch : (Instr.notchInit 4).wf cfg0 = false := by decide +kernel
theorem test_wf_refuses_circular_buffer : (Instr.arrSum 4).wf cfg0 = false := by decide +kernel
theorem test_wf_refuses_moving_average : (Instr.maVar 4).wf cfg0 = false := by decide +kernel
theorem test_wf_accepts_last_slot : (Instr.maVar 3).wf cfg0 = true ∧ (Instr.acqMean .last 0xFFFF).wf cfg0 = true := by
  decide +kernel
theorem test_params_valid : Params.testPrograms.valid = true ∧ cfg0.valid = true ∧
    ({ cfg0 with nBq := 0 } : Params).valid = false := by decide +kernel

/-! ## Acquisition (95_test_vectors.md section 2.2) -/

theorem test_acqInit : see (fun t => (t.rc, t.acqC, t.acqS, t.armed)) (exec .acqInit (putArg [2, 100, 0] base)) =
    some (.ok, 2, 100, true) := by decide +kernel
theorem test_acqInit_too_big : see (fun t => (t.rc, t.armed)) (exec .acqInit (putArg [2, 128, 1] base)) =
    some (.arg, false) := by decide +kernel
theorem test_acqLoop :
    see (fun t => (t.last, t.res.map (·.value))) (exec .acqLoop { acq1 [7, 8] with last := .notAvailable }) =
      some (.first, #v[1, 0, 1, 2]) := by decide +kernel
theorem test_acqLoop_nothing_new : see res0 (exec .acqLoop (acq1 [7, 8])) = some (.ok, 0) := by decide +kernel
theorem test_acqMean : see res64 (exec (.acqMean .last 0) (acq1 [1, 2])) = some (.ok, 0x3FF8000000000000) := by
  decide +kernel
theorem test_acqMeanLim :
    see res64 (exec (.acqMeanLim .last 0) (putArg [10, 19] (acq1 ((List.range 20).map Int.ofNat)))) =
      some (.ok, 0x402D000000000000) := by decide +kernel
theorem test_acqMeanShift : see res64 (exec (.acqMeanShift .last 0) (putArg [2] (acq1 [-1, -2, -3, 0]))) =
    some (.ok, 0xFFFFFFFFFFFFFFFE) := by decide +kernel
theorem test_acqMeanShift_64 : see res64 (exec (.acqMeanShift .last 0) (putArg [64] (acq1 [-1, -2, -3, 0]))) =
    some (.ok, 0xFFFFFFFFFFFFFFFF) := by decide +kernel
theorem test_acqAbsMean : see res64 (exec (.acqAbsMean .last 0) (acq1 [-32768, -32768])) =
    some (.ok, 0x40E0000000000000) := by decide +kernel
theorem test_acqRms : see res64 (exec (.acqRms .last 0) (acq1 [3, 4, 3, 4])) = some (.ok, 0x400C48C6001F0AC0) := by
  decide +kernel
theorem test_acqTrueRms : see res64 (exec (.acqTrueRms .last 0) (putArg [1, 1] (acq1 [3, 4, 3, 4]))) =
    some (.ok, 0x4010000000000000) := by decide +kernel
theorem test_acqMax : see res0 (exec (.acqMax .last 0) (acq1 [-5, -2, -2, -9])) = some (.ok, 0xFFFFFFFE) := by
  decide +kernel
theorem test_acqMin : see res0 (exec (.acqMin .last 0) (acq1 [-32768, 0])) = some (.ok, 0xFFFF8000) := by decide +kernel
theorem test_acqSetOffset_wraps : see channel (exec (.acqSetOffset .last 0) (putArg [1] (acq1 [32767, 4]))) =
    some (some [-32768, 5]) := by decide +kernel
theorem test_acqSetOffset_wraps_32 :
    see channel (exec (.acqSetOffset .last 0) (putArg [0xFFFFFFFF] (acq32 [-2147483648]))) = some (some [2147483647]) := by
  decide +kernel
theorem test_acqCma :
    see (fun t => (t.res[0].value, channel t))
        (exec (.acqCma .last 0) (putArg [85, 5] (acq1 [0, 20, 40, 60, 80, 100, 120, 140, 160, 180]))) =
      some (112, some [71, 63, 60, 60, 63, 69, 77, 87, 99, 112]) := by decide +kernel
theorem test_acqPeakFwd : see res0 (exec (.acqPeakFwd .last 0) (acq1 [4, 4, 4, 5])) = some (.ok, 2) := by decide +kernel
theorem test_acqPeakRev : see res0 (exec (.acqPeakRev .last 0) (acq1 [0, 5, 9, 7, 2, 4])) = some (.ok, 4) := by
  decide +kernel
theorem test_acqSineWin : see (fun t => (t.res[0].value, t.res[1].value))
    (exec (.acqSineWin .last 0) (acq1 [0, 5, 9, 7, 2, 4])) = some (2, 4) := by decide +kernel
theorem test_sample_address : ({ base with acqC := 2, acqS := 2 } : State).sampleAddr .second 0 1 = 10 ∧
    ({ base with acqC := 2, acqS := 2 } : State).sampleAddr .second 1 1 = 14 := by decide +kernel

/-! ## Hanning (section 2.3), with the tables given there -/

/-- A table of the given coefficients. -/
def putHann (ks : List F32) (s : State) : State :=
  { s with hannLen := BitVec.ofNat 32 ks.length, hcoef := cellsAt 0 (f32Bytes ks) }

theorem test_hannInit_zero : see (fun t => t.rc) (exec .hannInit (putArg [0] base)) = some .arg := by decide +kernel
theorem test_hannInit : see (fun t => (t.rc, t.hannLen)) (exec .hannInit (putArg [4] base)) = some (.ok, 4) := by
  decide +kernel
theorem test_hannApply :
    see channel (exec (.hannApply .last 0) (putHann [0, 0x3F000000, 0x3F800000, 0x3F000000] (acq1 [100, 101, -7, 33]))) =
      some (some [0, 50, -7, 16]) := by decide +kernel
theorem test_hannApply_short_table :
    see (fun t => t.rc) (exec (.hannApply .last 0) (putHann [0, 0x3F800000] (acq1 [1, 2, 3, 4]))) = some .arg := by
  decide +kernel
theorem test_hannDirect_no_channel : see (fun t => (t.rc, channel t)) (exec (.hannDirect .last 1) (acq1 [3, 4])) =
    some (.ok, some [3, 4]) := by decide +kernel

/-! ## IIR (section 2.4) -/

theorem test_bqInits_fill : see (fun t => ((t.bqSlot 3).initialised, (t.bqSlot 3).b1, (t.bqSlot 2).initialised))
    (exec (.bqInitBp 3) (putArg [0x3A83126F, 0x42C80000, 0x41A00000] base)) = some (true, 0, false) := by decide +kernel
theorem test_bqInitBs_completes : see (fun t => t.rc)
    (exec (.bqInitBs 0) (putArg [0x3A83126F, 0x42C80000, 0x41A00000] base)) = some .ok := by decide +kernel
theorem test_bqInitLp_completes : see (fun t => t.rc)
    (exec (.bqInitLp 0) (putArg [0x3A83126F, 0x42C80000, 0x41A00000] base)) = some .ok := by decide +kernel
theorem test_bqLoad : see (fun t => t.bqSlot 1) (exec (.bqLoad 1) (putArg [1, 2, 3, 4, 5] base)) =
    some ⟨true, 1, 2, 3, 4, 5, 0, 0, 0, 0, 0, 0⟩ := by decide +kernel
theorem test_bqStep : see res0 (exec (.bqStep 1)
    ((putArg [0] base).setBq 1 ⟨true, 0x3F000000, 0x3E800000, 0, 0xBF000000, 0, 0, 0x3F800000, 0, 0, 0x3F000000, 0⟩)) =
      some (.ok, 0x3F000000) := by decide +kernel
theorem test_bqStep_not_init : see (fun t => t.rc) (exec (.bqStep 1) (putArg [0] base)) = some .notInit := by
  decide +kernel
theorem test_emaInitAlpha : see (fun t => t.emaSlot 2) (exec (.emaInitAlpha 2) (putArg [0x3F000000] base)) =
    some ⟨true, 0x3F000000, 0⟩ := by decide +kernel
theorem test_emaInitFc_completes : see (fun t => (t.rc, (t.emaSlot 2).initialised))
    (exec (.emaInitFc 2) (putArg [0x3F800000, 0x40800000] base)) = some (.ok, true) := by decide +kernel
theorem test_emaStep : see res0 (exec (.emaStep 2) ((putArg [0] base).setEma 2 ⟨true, 0x3F000000, 0x3F600000⟩)) =
    some (.ok, 0x3EE00000) := by decide +kernel
theorem test_notchInit_completes : see (fun t => (t.rc, (t.notchSlot 0).initialised))
    (exec (.notchInit 0) (putArg [0, 0, 0x3A83126F] base)) = some (.ok, true) := by decide +kernel
theorem test_notchStep : see res0 (exec (.notchStep 0) ((putArg [0x3F800000] base).setNotch 0
    ⟨true, 0x40800000, 0, 0, 0x3F800000, 0, 0, 0x3F800000, 0⟩)) = some (.ok, 0x3F800000) := by decide +kernel

/-! ## Goertzel (section 2.5) -/

/-- The detector of the first row: N = 4, target 0 Hz. -/
def goertzel0 : Goertzel := ⟨4, 0, 0, 0, 0x3F800000, 0x40000000, 0x3F000000, 0x3F800000, 0, 0, 0, 0⟩

theorem test_gzInit_zero_length : see (fun t => (t.rc, t.gz)) (exec .gzInit (putArg [1, 1, 1, 1, 1, 0, 1] base)) =
    some (.arg, Goertzel.reset) := by decide +kernel
theorem test_gzInit_bin : goertzelBin (goertzelKr 20 (f64 0x42480000) (f64 0x447A0000)) = some 1 := by decide +kernel
theorem test_gzFeed_block : see (fun t => (t.res[0].value, t.res[1].value, t.gz.cnt))
    (exec (.gzFeed .last 0) (putArg [4] { acq1 [1, 1, 1, 1] with gz := goertzel0 })) = some (1, 0x40000000, 0) := by
  decide +kernel
theorem test_gzFeed_part : see (fun t => (t.res[0].value, t.gz.cnt))
    (exec (.gzFeed .last 0) (putArg [2] { acq1 [1, 1, 1, 1] with gz := goertzel0 })) = some (0, 2) := by decide +kernel

/-! ## FFT (section 2.6) -/

/-- A table of the given entries, with `FFT_LEN` = 2. -/
def fft2 (xs : List (BitVec 16)) : State := { acq1 [1, 2, 3, 4] with fftLen := 2, tab := cellsAt 0 (int16Bytes xs) }

theorem test_fftInit : see (fun t => (t.rc, t.fftLen, t.tab)) (exec .fftInit (putArg [4] (fft2 [5, 6, 7, 8]))) =
    some (.ok, 4, []) := by decide +kernel
theorem test_fftInit_rejects : see (fun t => (t.rc, t.fftLen)) (exec .fftInit (putArg [3] (fft2 []))) = some (.arg, 2) := by
  decide +kernel
theorem test_fftRun : see res0 (exec (.fftRun .last 0) (fft2 [])) = some (.ok, 0x210000) := by decide +kernel
theorem test_fftRun_32 : see res0 (exec (.fftRun .last 0) { acq32 [1, 2, 3, 4] with fftLen := 4 }) = some (.arg, 0) := by
  decide +kernel
theorem test_fftAbsMax : see (fun t => (t.res[0].value, t.res[1].value))
    (exec (.fftAbsMax true) (putArg [4] (fft2 [5, 0xFFF7, 9, 2]))) = some (1, 9) := by decide +kernel
theorem test_fftAbsMax_rejects_end : see (fun t => (t.res[0].value, t.res[1].value))
    (exec (.fftAbsMax true) (putArg [4] (fft2 [1, 2, 3, 0x8000]))) = some (0, 0) := by decide +kernel
theorem test_fftAbsMax_unwritten : faultOf (exec (.fftAbsMax false) (putArg [1] (fft2 []))) =
    some (.unwrittenData (.command 0)) := by decide +kernel

/-! ## Circular buffers and moving averages (section 2.7) -/

/-- The circular buffer after pushes of 1, 2, 3, 4, 5. -/
def cb5 : CircBuf := ⟨4, [0x40A00000, 0x40000000, 0x40400000, 0x40800000], 1⟩

/-- Slot 1 holds `cb5`, and `ARG0` a value. -/
def cbState (x : Word) : State := (putArg [x] base).setCb 1 cb5

theorem test_cbInit : see (fun t => ((t.cbSlot 1).len, (t.cbSlot 1).idx, (t.cbSlot 1).buf.take 4))
    (exec (.cbInit 1) (cbState 4)) = some (4, 0, [0, 0, 0, 0]) := by decide +kernel
theorem test_cbInit_zero : see (fun t => (t.rc, t.cbSlot 1)) (exec (.cbInit 1) (cbState 0)) = some (.arg, cb5) := by
  decide +kernel
theorem test_cbPush : see (fun t => t.cbSlot 1) (exec (.cbPush 1) (cbState 0x40C00000)) =
    some ⟨4, [0x40A00000, 0x40C00000, 0x40400000, 0x40800000], 2⟩ := by decide +kernel
theorem test_cbGet : see res0 (exec (.cbGet 1) (cbState 3)) = some (.ok, 0x40A00000) := by decide +kernel
theorem test_cbMean : see res0 (exec (.cbMean 1) (cbState 3)) = some (.ok, 0x40800000) := by decide +kernel
theorem test_cbMax : see res0 (exec (.cbMax 1) (cbState 3)) = some (.ok, 0x40A00000) := by decide +kernel
theorem test_arrMax : see res0 (exec (.arrMax 1) (cbState 4)) = some (.ok, 0x40A00000) := by decide +kernel
theorem test_arrMin : see res0 (exec (.arrMin 1) (cbState 4)) = some (.ok, 0x40000000) := by decide +kernel
theorem test_arrSum : see res0 (exec (.arrSum 1) (cbState 3)) = some (.ok, 0x41200000) := by decide +kernel
theorem test_arrMean : see res0 (exec (.arrMean 1) (cbState 4)) = some (.ok, 0x40600000) := by decide +kernel

/-- The moving average after four pushes of 2.0, and `ARG0` a value. -/
def maState (x : Word) : State :=
  (putArg [x] base).setMa 2 ⟨⟨4, List.replicate 4 0x40000000, 0⟩, 0x41000000, 0, 0x40000000⟩

theorem test_maInit : see (fun t => ((t.maSlot 2).cb.len, (t.maSlot 2).sum)) (exec (.maInit 2) (maState 4)) =
    some (4, 0) := by decide +kernel
theorem test_maInit_one : see (fun t => t.rc) (exec (.maInit 2) (maState 1)) = some .arg := by decide +kernel
theorem test_maMean : see res0 (exec (.maMean 2) (maState 0x40C00000)) = some (.ok, 0x40400000) := by decide +kernel
theorem test_maVar : see res0 (exec (.maVar 2) (maState 0x40C00000)) = some (.ok, 0x40800000) := by decide +kernel
theorem test_maStd : see res0 (exec (.maStd 2) (maState 0x40C00000)) = some (.ok, 0x40000000) := by decide +kernel

/-! ## CRC (section 2.8) -/

/-- XBUF holds the bytes; `ARG0` = 0, `ARG1` = their number. -/
def crcState (bs : List Byte) : State :=
  putArg [0, BitVec.ofNat 32 bs.length]
    (putXbuf bs { base with crc4Poly := 0x3, crc4Init := 0x0, crc8Poly := 0x31, crc8Init := 0xFF })

theorem test_crc4 : see res0 (exec .crc4 (crcState [0x12, 0x34])) = some (.ok, 0xC) := by decide +kernel
theorem test_crc8 : see res0 (exec .crc8 (crcState [0xBE, 0xEF])) = some (.ok, 0x92) := by decide +kernel
theorem test_crc32 : see res0 (exec .crc32 (crcState [0x78, 0x56, 0x34, 0x12])) = some (.ok, 0xDF8A8A2B) := by
  decide +kernel
theorem test_crc32_length : see (fun t => t.rc) (exec .crc32 (crcState [1, 2, 3])) = some .arg := by decide +kernel

/-! ## NV (section 2.9, with the small sectors of `cfg0`: sector 1 at 0x24) -/

/-- Flash control and option bytes unlocked, every failure draw false. -/
def nvOpen (vs : List Word) : State :=
  putArg vs { base with lock := false, oblock := false, drawTape := List.replicate 20 0 }

theorem test_nvUnlock : see (fun t => (t.lock, t.oblock)) (exec .nvUnlock base) = some (false, true) := by decide +kernel
theorem test_nvLock : see (fun t => (t.lock, t.oblock)) (exec .nvLock (nvOpen [])) = some (true, false) := by decide +kernel
theorem test_nvObUnlock : see (fun t => (t.lock, t.oblock)) (exec .nvObUnlock base) = some (true, false) := by
  decide +kernel
theorem test_nvObLock : see (fun t => (t.lock, t.oblock)) (exec .nvObLock (nvOpen [])) = some (false, true) := by
  decide +kernel
theorem test_nvWpSet : see (fun t => (t.rc, t.nvOptWp, t.nvWp)) (exec (.nvWpSet true) (nvOpen [3])) = some (.ok, 8, 0) := by
  decide +kernel
theorem test_nvWpSet_locked : see (fun t => (t.rc, t.nvOptWp)) (exec (.nvWpSet true) (putArg [3] base)) =
    some (.writeFail, 0) := by decide +kernel
theorem test_nvObLaunch : see (fun t => (t.rc, t.nvWp)) (exec .nvObLaunch { nvOpen [] with nvOptWp := 8 }) =
    some (.ok, 8) := by decide +kernel
theorem test_nvErase : see (fun t => (t.rc, t.nv))
    (exec .nvErase { nvOpen [1] with nv := [(0x23, 1), (0x24, 2), (0x227, 3), (0x228, 4)] }) =
      some (.ok, [(0x23, 1), (0x228, 4)]) := by decide +kernel
theorem test_nvErase_locked : see (fun t => t.rc) (exec .nvErase (putArg [1] base)) = some .writeFail := by decide +kernel
theorem test_nvProgByte : see (fun t => (t.rc, t.nv)) (exec .nvProgByte (nvOpen [0x25, 0x17B])) = some (.ok, [(0x25, 0x7B)]) := by
  decide +kernel
theorem test_nvProgByte_not_erased : see (fun t => (t.rc, t.nvByte 0x25))
    (exec .nvProgByte { nvOpen [0x25, 0] with nv := [(0x25, 0x55)], drawTape := [0x99, 1] }) = some (.ok, 0x99) := by
  decide +kernel
theorem test_nvProgWord : see (fun t => (t.rc, t.nv)) (exec .nvProgWord (nvOpen [0x24, 0x12345678])) =
    some (.ok, [(0x24, 0x78), (0x25, 0x56), (0x26, 0x34), (0x27, 0x12)]) := by decide +kernel
theorem test_nvProgWord_misaligned : see (fun t => t.rc) (exec .nvProgWord (nvOpen [0x26, 0])) = some .arg := by
  decide +kernel
theorem test_nvReadByte : see res0 (exec .nvReadByte { nvOpen [0x25] with nv := [(0x25, 0x56)] }) = some (.ok, 0x56) := by
  decide +kernel

/-- NV holds the four zero bytes and their CRC word at 0x24. -/
def nvRecord : Memory := cellsAt 0x24 [0, 0, 0, 0, 0x7B, 0xDD, 0x04, 0xC7]

theorem test_nvRead : see (fun t => (t.rc, t.res[0].value, t.res[1].value))
    (exec (.nvRead true) { putArg [0x24, 4, 0x10] base with nv := nvRecord }) =
      some (.ok, 0xC704DD7B, 0xC704DD7B) := by decide +kernel
theorem test_nvRead_erased : see (fun t => (t.rc, t.res[0].value, t.res[1].value))
    (exec (.nvRead true) (putArg [0x24, 16, 0] base)) = some (.crcFail, 0xA79C3203, 0xFFFFFFFF) := by decide +kernel
/-- 11 micro-steps in all (section 2.9). -/
theorem test_nvWrite : ((exec (.nvWrite true) (putXbuf [0, 0, 0, 0] { nvOpen [0x24, 4, 0] with lock := true })).casesOn
    (fun u => see (fun t => (t.rc, t.progress, t.lock, t.nv)) (u.runMicroSteps 10)) (fun _ => none) (fun _ => none)) =
      some (.ok, none, true, nvRecord) := by decide +kernel
theorem test_nvWrite_range : see (fun t => t.rc) (exec (.nvWrite true) (putXbuf [0, 0, 0, 0] (nvOpen [0x224, 4, 0]))) =
    some .arg := by decide +kernel
theorem test_otpRead : see (fun t => (t.rc, t.xbuf.take 2))
    (exec .otpRead { base with nvOptWp := 1, nv := [(0, 2), (1, 7)] }) = some (.ok, [(0, 2), (1, 7)]) := by decide +kernel
theorem test_otpRead_empty : see (fun t => (t.rc, t.xbuf)) (exec .otpRead base) = some (.empty, []) := by decide +kernel
theorem test_otpWrite_version : see (fun t => (t.rc, t.lock, t.progress))
    (exec .otpWrite (putXbuf (3 :: List.replicate 31 0) base)) = some (.writeFail, true, none) := by decide +kernel
theorem test_otpWrite : see (fun t => (t.lock, t.oblock, t.progress.isSome))
    (exec .otpWrite (putXbuf (2 :: List.replicate 31 0) base)) = some (false, false, true) := by decide +kernel

/-! ## Witnesses: for every statement with hypotheses, and for each of its clauses, a state that meets them -/

theorem witness_DecodeOfEncode : (Instr.bqStep 3).wf cfg0 = true := by decide +kernel

theorem witness_DecodedWordIsItsEncoding : decode cfg0 0x0000303D = some (.notchStep 3) := by decide +kernel

theorem witness_ReservedWordsDoNotDecode :
    (0x00000000 : Word).toNat % 256 ∈ reservedOpcodes ∧ (0x0000008E : Word).toNat % 256 ∈ reservedOpcodes ∧
      (0x000000FF : Word).toNat % 256 ∈ reservedOpcodes ∧ (0x00000801 : Word).getLsbD 11 = true ∧
      (0x00000303 : Word).extractLsb' 8 2 = 3 := by decide +kernel

theorem witness_CommandWriteRunsTheWord :
    decode base.cfg 0x00004034 = none ∧ decode base.cfg 0x00003034 = some (.bqStep 3) := by decide +kernel

/-- HOST's line writes `NV_UNLOCK`, and the turn is HOST's. -/
def hostState : State :=
  { base with schedule := [.host], hostProgram := [.write 0 .w4 (.lit 0x80)] }

theorem witness_StepRunsTheDecodedCommand :
    hostState.schedule = .host :: [] ∧ hostState.progress = none ∧
      hostState.hostLine? = some (.write hostState.cfg.blockBase .w4 (.lit 0x80)) ∧
      decode hostState.cfg 0x80 = some .nvUnlock ∧ see (fun t => (t.lock, t.hostPos)) (step hostState) = some (false, 1) := by
  decide +kernel

/-- C = 1, S = 2, W = 16, armed, with a write pointer, `ACTIVE`, `LAST` and pending completions. -/
def arbiter (w : Word) (active last : ActiveBuffer) (fifo : List Completion) (l : List Turn) : State :=
  { base with acqC := 1, acqS := 2, armed := true, wptr := w, active := active, last := last, fifo := fifo, schedule := l }

theorem witness_ProducerStepsDoTheirWork :
    ((arbiter 1 .notAvailable .notAvailable [] [.produce]).ArbiterInv ∧
      (arbiter 1 .notAvailable .notAvailable [] [.produce]).armed = true ∧
      (arbiter 1 .notAvailable .notAvailable [] [.produce]).progress = none) ∧
    ((arbiter 3 .notAvailable .notAvailable [.half] [.produce]).ArbiterInv ∧
      see (fun t => (t.wptr, t.fifo)) (step (arbiter 3 .notAvailable .notAvailable [.half] [.produce])) =
        some (0, [.half, .full])) ∧
    (arbiter 0 .notAvailable .notAvailable [.half, .full] [.complete]).fifo = .half :: [.full] ∧
    (arbiter 0 .notAvailable .notAvailable [.half, .full] [.complete]).progress = none := by decide +kernel

/-- In an `NV_WRITE`, with a turn of an agent and a completion pending; the parameter lets PROD step there, or not. -/
def compositeProd (free : Bool) (t : Turn) : State :=
  { arbiter 3 .notAvailable .notAvailable [.half] [t] with
    progress := some ⟨.nvWrite false 0x24 1 0 [7], 3⟩, drawTape := [0x12345]
    cfg := { cfg0 with prodInComposites := free } }

theorem witness_ProducerStepsDoTheirWork_in_composite :
    ((compositeProd true .produce).ArbiterInv ∧ (compositeProd true .produce).armed = true ∧
      (compositeProd true .produce).cfg.prodInComposites = true ∧ (compositeProd true .produce).schedule = .produce :: []) ∧
    see (fun t => (t.wptr, t.fifo, t.ring)) (step (compositeProd true .produce)) =
      some (0, [.half, .full], [(6, 0x45), (7, 0x23)]) ∧
    see (fun t => (t.active, t.fifo, t.progress.isSome)) (step (compositeProd true .complete)) =
      some (.first, [], true) := by decide +kernel

theorem witness_AcqInitRecordsOrRejects :
    ((putArg [2, 64, 1] base).HasArg 0 2 ∧ (putArg [2, 64, 1] base).HasArg 1 64 ∧ (putArg [2, 64, 1] base).HasArg 2 1 ∧
      ¬base.cfg.ringBytes < 2 * 2 * 64 * (32 / 8)) ∧
    ((putArg [2, 65, 1] base).HasArg 1 65 ∧ base.cfg.ringBytes < 2 * 2 * 65 * (32 / 8)) ∧
    (putArg [2, 64] base).args[(2 : Fin 8)].written = false := by decide +kernel

theorem witness_AcqLoopDeliversOnce :
    (arbiter 2 .first .notAvailable [] []).active ≠ (arbiter 2 .first .notAvailable [] []).last ∧
      base.active = base.last := by decide +kernel

theorem witness_AccessorsAnswerDefaults :
    (putArg [1, 2] base).active = .notAvailable ∧ (putArg [1, 2] base).HasArg 0 1 ∧ (putArg [1, 2] base).HasArg 1 2 ∧
      (arbiter 2 .first .notAvailable [] []).resolveHalf .last = none ∧
      (acq1 [7]).acqC.toNat ≤ (1 : Chan).toNat := by decide +kernel

theorem witness_MeansOfAChannel :
    (putArg [64] (acq1 [-1, -2, -3, 0])).Accepts .last 0 .first ∧
      [-1, -2, -3, 0].length = (putArg [64] (acq1 [-1, -2, -3, 0])).acqS.toNat ∧
      (putArg [64] (acq1 [-1, -2, -3, 0])).Samples .first 0 0 [-1, -2, -3, 0] ∧
      (putArg [64] (acq1 [-1, -2, -3, 0])).HasArg 0 64 := by decide +kernel

theorem witness_MeanOfAWindow :
    (putArg [1, 3] (acq1 [4, 5, 6, 7])).Accepts .last 0 .first ∧ (putArg [1, 3] (acq1 [4, 5, 6, 7])).HasArg 0 1 ∧
      (putArg [1, 3] (acq1 [4, 5, 6, 7])).HasArg 1 3 ∧ (1 : Word).toNat < (3 : Word).toNat ∧
      (3 : Word).toNat < (putArg [1, 3] (acq1 [4, 5, 6, 7])).acqS.toNat ∧
      [5, 6, 7].length = (3 : Word).toNat - (1 : Word).toNat + 1 ∧
      (putArg [1, 3] (acq1 [4, 5, 6, 7])).Samples .first 0 1 [5, 6, 7] ∧
      ((putArg [3, 4] (acq1 [4, 5, 6, 7])).HasArg 1 4 ∧ (putArg [3, 4] (acq1 [4, 5, 6, 7])).acqS.toNat ≤ (4 : Word).toNat) ∧
      (putArg [2, 2] (acq1 [4, 5, 6, 7])).HasArg 1 2 := by decide +kernel

theorem witness_RmsIsExactOrDrawn :
    ((putArg [3, 3] (acq1 [3, 4, 3, 4])).Accepts .last 0 .first ∧
      (putArg [3, 3] (acq1 [3, 4, 3, 4])).Samples .first 0 0 [3, 4, 3, 4] ∧
      (∀ x ∈ [3, 4, 3, 4], (([3, 4, 3, 4] : List Int).length : Int) * (x * x) < 2 ^ 63) ∧
      (putArg [3, 3] (acq1 [3, 4, 3, 4])).HasArg 0 3 ∧ (putArg [3, 3] (acq1 [3, 4, 3, 4])).HasArg 1 3 ∧
      (putArg [3, 3] (acq1 [3, 4, 3, 4])).Samples .first 0 3 [4]) ∧
    ((putArg [0, 1] (acq32 [5, -2147483648])).Accepts .last 0 .first ∧
      (putArg [0, 1] (acq32 [5, -2147483648])).Samples .first 0 0 [5, -2147483648] ∧
      (∃ x ∈ [5, -2147483648], 2 ^ 63 ≤ (([5, -2147483648] : List Int).length : Int) * (x * x)) ∧
      (putArg [0, 1] (acq32 [5, -2147483648])).HasArg 1 1) ∧
    (putArg [0, 4] (acq1 [3, 4, 3, 4])).acqS.toNat ≤ (4 : Word).toNat := by decide +kernel

theorem witness_LargestAndSmallestSample :
    (acq1 [-5, -2, -2, -9]).Accepts .last 0 .first ∧ [-5, -2, -2, -9].length = (acq1 [-5, -2, -2, -9]).acqS.toNat ∧
      (acq1 [-5, -2, -2, -9]).Samples .first 0 0 [-5, -2, -2, -9] ∧ (∀ x ∈ [-5, -2, -2, -9], x ≤ (-2 : Int)) ∧
      (-2 : Int) ∈ [-5, -2, -2, -9] ∧ (∀ x ∈ [-5, -2, -2, -9], (-9 : Int) ≤ x) := by decide +kernel

theorem witness_MutatorsRewriteTheChannel :
    (putArg [10, 1] (acq1 [3, 32767])).Accepts .last 0 .first ∧
      [3, 32767].length = (putArg [10, 1] (acq1 [3, 32767])).acqS.toNat ∧
      (putArg [10, 1] (acq1 [3, 32767])).Samples .first 0 0 [3, 32767] ∧
      (putArg [10, 1] (acq1 [3, 32767])).HasArg 0 10 ∧ (putArg [10, 1] (acq1 [3, 32767])).HasArg 1 1 ∧
      ([7, 16387] : List Int).length = ([3, 32767] : List Int).length ∧
      ∀ i, i < ([3, 32767] : List Int).length →
        ([7, 16387] : List Int).getD i 0 = ((10 : Word).toInt :: [7, 16387]).getD i 0 +
          Int.tdiv (([3, 32767] : List Int).getD i 0 - ((10 : Word).toInt :: [7, 16387]).getD i 0) ((1 : Word).toNat + 1) := by
  decide +kernel

theorem witness_PeaksAreDirectionFlips_samples :
    (acq1 [0, 5, 9, 7, 2, 4]).Accepts .last 0 .first ∧ (acq1 [0, 5, 9, 7, 2, 4]).Samples .first 0 0 [0, 5, 9, 7, 2, 4] ∧
      (acq1 [7]).Accepts .last 0 .first ∧ (acq1 [7]).Samples .first 0 0 [7] := by decide +kernel

theorem witness_PeaksAreDirectionFlips_first :
    IsFirstFlip [0, 5, 9, 7, 2, 4] 2 ∧ IsFirstFlip [7] 0 ∧ IsFirstFlip [1, 2, 3] 0 := by decide +kernel

theorem witness_PeaksAreDirectionFlips_last :
    IsLastFlip [0, 5, 9, 7, 2, 4] 4 ∧ IsLastFlip [7] 0 ∧ IsLastFlip [1, 2, 3] 2 :=
  ⟨by decide +kernel, by decide +kernel, by decide +kernel⟩

theorem witness_HannInitFillsTheTable :
    (putArg [0] base).HasArg 0 0 ∧ base.cfg.hannMax < (16385 : Word).toNat ∧ (putArg [16384] base).HasArg 0 16384 ∧
      (16384 : Word).toNat ≤ base.cfg.hannMax := by decide +kernel

theorem witness_WindowsMultiplyTheChannel :
    (base.resolveHalf .last = none ∧ (putHann [0] (acq1 [7])).hannLen ≠ 0 ∧ (acq1 [7]).acqC.toNat ≤ (1 : Chan).toNat) ∧
    ((putHann [0] (acq1 [3, 4])).Names .last 0 .first ∧
      (putHann [0] (acq1 [3, 4])).hannLen.toNat < (putHann [0] (acq1 [3, 4])).acqS.toNat) ∧
    ((putHann [0, 0x3F800000] (acq1 [3, 4])).Names .last 0 .first ∧
      [3, 4].length = (putHann [0, 0x3F800000] (acq1 [3, 4])).acqS.toNat ∧
      (putHann [0, 0x3F800000] (acq1 [3, 4])).Samples .first 0 0 [3, 4] ∧
      (putHann [0, 0x3F800000] (acq1 [3, 4])).acqS.toNat ≤ (putHann [0, 0x3F800000] (acq1 [3, 4])).hannLen.toNat ∧
      (∀ n, n < (putHann [0, 0x3F800000] (acq1 [3, 4])).acqS.toNat →
        Memory.readBytes unwritten (putHann [0, 0x3F800000] (acq1 [3, 4])).hcoef (4 * n) 4 =
          some (leBytes 4 (([0, 0x3F800000] : List F32).getD n 0).toNat)) ∧
      F32.trunc (F32.mul (F32.ofInt 4) 0x3F800000) = some 4) ∧
    ((List.range (acq1 [3, 4]).acqS.toNat).map (fun n => hcoef n (acq1 [3, 4]).acqS.toNat)).length =
      (acq1 [3, 4]).acqS.toNat := by decide +kernel

theorem witness_BiquadInitsFillTheSlot :
    (putArg [1, 2, 3, 4, 5] base).HasArg 0 1 ∧ (putArg [1, 2, 3, 4, 5] base).HasArg 1 2 ∧
      (putArg [1, 2, 3, 4, 5] base).HasArg 2 3 ∧ (putArg [1, 2, 3, 4, 5] base).HasArg 3 4 ∧
      (putArg [1, 2, 3, 4, 5] base).HasArg 4 5 := by decide +kernel

theorem witness_FilterStepsComputeTheRecurrence :
    (putArg [7] base).HasArg 0 7 ∧
      (((putArg [7] base).setBq 3 (.fresh 1 2 3 4 5)).bqSlot 3).initialised = true ∧
      (((putArg [7] base).setEma 3 ⟨true, 1, 0⟩).emaSlot 3).initialised = true ∧
      (((putArg [7] base).setNotch 3 ⟨true, 1, 2, 0, 0, 0, 0, 0, 0⟩).notchSlot 3).initialised = true := by decide +kernel

theorem witness_EmaAndNotchInitsFillTheSlot :
    (putArg [1, 2, 3] base).HasArg 0 1 ∧ (putArg [1, 2, 3] base).HasArg 1 2 ∧ (putArg [1, 2, 3] base).HasArg 2 3 := by
  decide +kernel

theorem witness_UninitialisedUnitsAnswerNotInit :
    (putArg [1] base).hannLen = 0 ∧ (putArg [1] base).fftLen = 0 ∧ (putArg [1] base).args[(0 : Fin 8)].written = true ∧
      ((putArg [1] base).bqSlot 3).initialised = false ∧ ((putArg [1] base).emaSlot 3).initialised = false ∧
      ((putArg [1] base).notchSlot 3).initialised = false ∧ ((putArg [1] base).cbSlot 3).len = 0 ∧
      ((putArg [1] base).maSlot 3).cb.len = 0 ∧ (putArg [1] base).gz.n = 0 := by decide +kernel

/-- The seven operands of `GZ_INIT`: target and sample frequency and N vary. -/
def gzArgs (target sample n : Word) : State :=
  putArg [0x3F800000, 0x3F800000, 0x3F800000, target, sample, n, 0x3F800000] base

/-- The bin before rounding for those operands. -/
def gzKr (target sample n : Word) : F64 :=
  F64.add F64.half (F64.div (F64.mul (F64.ofInt n.toNat) (F64.ofF32 target)) (F64.ofF32 sample))

theorem witness_GoertzelInitSetsTheConstants :
    ((gzArgs 0x40000000 0x40800000 4).HasArg 0 0x3F800000 ∧ (gzArgs 0x40000000 0x40800000 4).HasArg 1 0x3F800000 ∧
      (gzArgs 0x40000000 0x40800000 4).HasArg 2 0x3F800000 ∧ (gzArgs 0x40000000 0x40800000 4).HasArg 3 0x40000000 ∧
      (gzArgs 0x40000000 0x40800000 4).HasArg 4 0x40800000 ∧ (gzArgs 0x40000000 0x40800000 4).HasArg 5 4 ∧
      (gzArgs 0x40000000 0x40800000 4).HasArg 6 0x3F800000) ∧
    (F64.isNan (gzKr 0x40000000 0x40800000 4) = false ∧ F64.lt (gzKr 0x40000000 0x40800000 4) 0 = false ∧
      F64.lt (gzKr 0x40000000 0x40800000 4) F64.two32 = true ∧ F64.trunc (gzKr 0x40000000 0x40800000 4) = some 2) ∧
    (F64.lt (gzKr 0xBF800000 0x40800000 4) 0 = true ∧ F64.lt (gzKr 0x4F800000 0x3F800000 1) F64.two32 = false ∧
      F64.lt (gzKr 0xBF000000 0x3F800000 1) 0 = false) := by decide +kernel

theorem witness_GoertzelInitSetsTheConstants_nan : F64.isNan (gzKr 0 0 1) = true :=
  F64.isNan_add_right _ _ (F64.isNan_div _ _ (by decide +kernel))

/-- Four samples, the detector `goertzel0`, and `ARG0` = m. -/
def gzState (m : Nat) : State := putArg [BitVec.ofNat 32 m] { acq1 [1, 1, 1, 1] with gz := goertzel0 }

theorem witness_GoertzelFeedCountsBlocks :
    (∀ m ∈ [0, 1, 3, 4], (gzState m).HasArg 0 (BitVec.ofNat 32 m) ∧ (gzState m).Names .last 0 .first ∧
      m ≤ (gzState m).acqS.toNat ∧ (gzState m).Samples .first 0 0 (List.replicate m 1)) ∧
    goertzel0.n ≠ 0 ∧ goertzel0.cnt.toNat < goertzel0.n.toNat ∧ goertzel0.cnt + 1 ≠ goertzel0.n ∧
    ({ goertzel0 with cnt := 3 } : Goertzel).cnt + 1 = ({ goertzel0 with cnt := 3 } : Goertzel).n ∧
    (gzState 5).HasArg 0 5 ∧ (gzState 5).acqS.toNat < (5 : Word).toNat := by decide +kernel

theorem witness_FftInitAndRun :
    ((putArg [1] base).HasArg 0 1 ∧ (1 : Word).toNat ∉ base.cfg.fftLengths ∧ (putArg [16384] base).HasArg 0 16384 ∧
      (16384 : Word).toNat ∈ base.cfg.fftLengths) ∧
    ((fft2 []).fftLen ≠ 0 ∧ (fft2 []).Names .last 0 .first ∧ (fft2 []).w32 = false ∧
      (fft2 []).fftLen.toNat ≤ (fft2 []).acqS.toNat ∧ [1, 2].length = (fft2 []).fftLen.toNat ∧
      (fft2 []).Samples .first 0 0 [1, 2]) ∧
    ({ acq1 [1] with fftLen := 2 } : State).acqS.toNat < ({ acq1 [1] with fftLen := 2 } : State).fftLen.toNat := by
  decide +kernel

theorem witness_FftAbsMaxFindsTheFirstLargest :
    (∀ n ∈ [0, 1, 4, 5], (putArg [BitVec.ofNat 32 n] (fft2 [1, 2, 3, 0x8000])).HasArg 0 (BitVec.ofNat 32 n)) ∧ (fft2 [1, 2, 3, 0x8000]).fftLen ≠ 0 ∧
    (2 * (fft2 [1, 2, 3, 0x8000]).fftLen.toNat < (5 : Word).toNat) ∧
    ((4 : Word).toNat ≤ 2 * (fft2 [1, 2, 3, 0x8000]).fftLen.toNat ∧ ([1, 2, 3, -32768] : List Int).length = (4 : Word).toNat ∧
      (∀ k, k < ([1, 2, 3, -32768] : List Int).length →
        Memory.readBytes unwritten (fft2 [1, 2, 3, 0x8000]).tab (2 * k) 2 =
          some (leBytes 2 (([1, 2, 3, 0x8000] : List (BitVec 16)).getD k 0).toNat) ∧
        (([1, 2, 3, 0x8000] : List (BitVec 16)).getD k 0).toInt = ([1, 2, 3, -32768] : List Int).getD k 0) ∧
      IsFirstLargest [1, 2, 3, -32768] 3 ∧ IsFirstLargest [1] 0) := by decide +kernel

theorem witness_CircularBufferCommands :
    (∀ x ∈ [0, 1, 3, 4, 16, 17], (cbState (BitVec.ofNat 32 x)).HasArg 0 (BitVec.ofNat 32 x)) ∧ base.cfg.cbMaxL = 16 ∧
      ((cbState 4).cbSlot 1).len = 4 := by
  decide +kernel

theorem witness_PushMakesEveryElementOlder : cb5.Ok 4 ∧ cb5.len ≠ 0 := by decide +kernel

theorem witness_SlotQueriesReturnTheirValue :
    (∀ n ∈ [0, 1, 4, 5], (cbState (BitVec.ofNat 32 n)).HasArg 0 (BitVec.ofNat 32 n) ∧
        (cbState (BitVec.ofNat 32 n)).cbSlot 1 = cb5) ∧ cb5.len = 4 ∧
      cb5.window 1 = ([0x40A00000], none) ∧ cb5.window 3 = ([0x40400000, 0x40800000], some [0x40A00000]) := by decide +kernel

theorem witness_WindowIsTheNewestElements : cb5.Ok 4 ∧ cb5.len ≠ 0 ∧ 1 ≤ 4 ∧ 4 ≤ cb5.len := by decide +kernel

theorem witness_MovingAverageCommands :
    (∀ x ∈ [1, 2, 16, 17], (maState (BitVec.ofNat 32 x)).HasArg 0 (BitVec.ofNat 32 x)) ∧ base.cfg.maMaxL = 16 ∧
      ((maState 2).maSlot 2).cb.len ≠ 0 := by
  decide +kernel

theorem witness_CrcCommandsReturnTheChecksum :
    ((putArg [0x3FC, 5] base).HasArg 0 0x3FC ∧ (putArg [0x3FC, 5] base).HasArg 1 5 ∧
      base.cfg.xbufBytes < (0x3FC : Word).toNat + (5 : Word).toNat ∧ (5 : Word).toNat % 4 ≠ 0) ∧
    (({ putArg [0x3FC, 4] base with xbuf := cellsAt 0x3FC [1, 2, 3, 4] } : State).XbufHas 0x3FC [1, 2, 3, 4] ∧
      (0x3FC : Word).toNat + (4 : Word).toNat ≤ base.cfg.xbufBytes ∧
      ([1, 2, 3, 4] : List Byte).length = (4 : Word).toNat ∧ (4 : Word).toNat % 4 = 0) := by decide +kernel

theorem witness_OptionCommandsObeyTheirLock :
    base.cfg.valid = true ∧ (nvOpen [3]).HasArg 0 3 ∧ (3 : Word).toNat < (nvOpen [3]).cfg.nvSectors ∧
      (nvOpen [3]).oblock = false ∧ (nvOpen [3]).drawBool.1 = false ∧ (nvOpen [4]).HasArg 0 4 ∧
      (nvOpen [4]).cfg.nvSectors ≤ (4 : Word).toNat ∧ (putArg [3] base).HasArg 0 3 ∧ base.oblock = true := by decide +kernel

theorem witness_EraseClearsOneSector :
    (nvOpen [3]).HasArg 0 3 ∧ (3 : Word).toNat < (nvOpen [3]).cfg.nvSectors ∧ (nvOpen [3]).lock = false ∧
      (nvOpen [3]).nvWp.getLsbD 3 = false ∧ (nvOpen [3]).drawBool.1 = false ∧
      (nvOpen [3]).cfg.nvSectors ≤ (4 : Word).toNat ∧ base.lock = true ∧
      ({ nvOpen [3] with nvWp := 8 } : State).nvWp.getLsbD 3 = true := by decide +kernel

theorem witness_ProgramWritesItsBytes :
    ((nvOpen [0x23F, 0x7B]).HasArg 0 0x23F ∧ (nvOpen [0x23F, 0x7B]).HasArg 1 0x7B ∧
      (0x23F : Word).toNat + 1 ≤ (nvOpen [0x23F, 0x7B]).cfg.nvBytes ∧
      (nvOpen [0x23F, 0x7B]).nvWp.getLsbD ((nvOpen [0x23F, 0x7B]).sectorOf 0x23F) = false ∧
      (nvOpen [0x23F, 0x7B]).lock = false ∧ (nvOpen [0x23F, 0x7B]).nvByte 0x23F = 0xFF) ∧
    ((0x23C : Word).toNat + 4 ≤ (nvOpen [0x23C, 0]).cfg.nvBytes ∧ (0x23C : Word).toNat % 4 = 0 ∧
      ∀ n, n < 4 → (nvOpen [0x23C, 0]).nvByte (0x23C + n) = 0xFF) ∧
    (nvOpen [0x240, 0]).cfg.nvBytes < (0x240 : Word).toNat + 1 ∧ (0x23E : Word).toNat % 4 ≠ 0 ∧ base.lock = true := by
  decide +kernel

theorem witness_NvReadsCopyBytes :
    ((putArg [0x23F, 1, 0x3FF] base).HasArg 0 0x23F ∧ (putArg [0x23F, 1, 0x3FF] base).HasArg 1 1 ∧
      (putArg [0x23F, 1, 0x3FF] base).HasArg 2 0x3FF ∧ (0x23F : Word).toNat < base.cfg.nvBytes ∧
      (0x23F : Word).toNat + (1 : Word).toNat ≤ base.cfg.nvBytes ∧ (0x3FF : Word).toNat + (1 : Word).toNat ≤ base.cfg.xbufBytes) ∧
    ((putArg [0x238, 4, 0] base).HasArg 0 0x238 ∧ (0x238 : Word).toNat + (4 : Word).toNat + 4 ≤ base.cfg.nvBytes) ∧
    base.cfg.nvBytes ≤ (0x240 : Word).toNat ∧ base.cfg.nvBytes < (0x239 : Word).toNat + (4 : Word).toNat + 4 := by decide +kernel

theorem witness_CompositesBeginAndOtpRead :
    ((nvOpen [0x220, 4, 0]).HasArg 0 0x220 ∧ (nvOpen [0x220, 4, 0]).HasArg 1 4 ∧ (nvOpen [0x220, 4, 0]).HasArg 2 0 ∧
      (putXbuf [1, 2, 3, 4] (nvOpen [0x220, 4, 0])).XbufHas 0 [1, 2, 3, 4] ∧ (nvOpen [0x220, 4, 0]).sectorOf 0x220 = 1 ∧
      (0x220 : Nat) + 4 + 4 = cfg0.sb 1 + cfg0.sz 1 ∧ 1 < cfg0.nvSectors) ∧
    (cfg0.sb 1 + cfg0.sz 1 < (0x221 : Word).toNat + (4 : Word).toNat + 4 ∧ (nvOpen [0x221, 4, 0]).sectorOf 0x221 = 1) ∧
    ((putXbuf (2 :: List.replicate 31 0) base).XbufHas 0 (2 :: List.replicate 31 0) ∧
      (putXbuf (3 :: List.replicate 31 0) base).XbufHas 0 (3 :: List.replicate 31 0) ∧
      ((2 : Byte) :: List.replicate 31 0).length = 32) ∧
    (base.nvOptWp.getLsbD base.cfg.otpSector = false ∧
      ({ base with nvOptWp := 1 } : State).nvOptWp.getLsbD base.cfg.otpSector = true) := by decide +kernel

theorem witness_NvWriteProgramsThePayload :
    (putXbuf [0, 0, 0, 0] (nvOpen [0x220, 4, 0])).HasArg 0 0x220 ∧ (putXbuf [0, 0, 0, 0] (nvOpen [0x220, 4, 0])).HasArg 1 4 ∧
      (putXbuf [0, 0, 0, 0] (nvOpen [0x220, 4, 0])).HasArg 2 0 ∧
      (putXbuf [0, 0, 0, 0] (nvOpen [0x220, 4, 0])).XbufHas 0 [0, 0, 0, 0] ∧
      (([0, 0, 0, 0] : List Byte) ++ leBytes 4 (crc32Fn cfg0 (leWords [0, 0, 0, 0])).toNat).length = 8 ∧
      (nvOpen [0x220, 4, 0]).sectorOf 0x220 = 1 ∧ (0x220 : Nat) + 8 ≤ cfg0.sb 1 + cfg0.sz 1 ∧
      (nvOpen [0x220, 4, 0]).nvWp.getLsbD 1 = false ∧ (nvOpen [0x220, 4, 0]).NoFailure (8 + 1) ∧
      ({ nvOpen [0x220, 4, 0] with nvWp := 2 } : State).nvWp.getLsbD 1 = true ∧
      ∀ i ∈ [0, 8], ({ nvOpen [0x220, 4, 0] with drawTape := List.replicate i 0 ++ [1] } : State).FirstFailure i := by
  decide +kernel

theorem witness_OtpRoundTrip :
    base.cfg.valid = true ∧ ((2 : Byte) :: List.replicate 31 5).length = 32 ∧
      (putXbuf (2 :: List.replicate 31 5) (nvOpen [])).XbufHas 0 (2 :: List.replicate 31 5) ∧
      (putXbuf (2 :: List.replicate 31 5) (nvOpen [])).NoFailure 13 ∧
      ∀ i ∈ [0, 1, 10, 12], ({ nvOpen [] with drawTape := List.replicate i 0 ++ [1] } : State).FirstFailure i := by
  decide +kernel

/-- The last micro-step of an `NV_WRITE` of one byte is next. -/
def compositeState : State :=
  { nvOpen [] with progress := some ⟨.nvWrite false 0x24 1 0 [7], 3⟩, schedule := [.cmdu] }

theorem witness_CompositesEnd :
    compositeState.CompositeInv ∧ compositeState.progress = some ⟨.nvWrite false 0x24 1 0 [7], 3⟩ ∧
      see (fun t => (t.rc, t.progress, t.lock)) (step compositeState) = some (.ok, none, true) := by decide +kernel

theorem witness_CompositesEnd_others_pass :
    (compositeProd false .produce).progress.isSome = true ∧ (compositeProd false .produce).turn = .produce ∧
      see (fun t => (t.wptr, t.fifo, t.schedule)) (step (compositeProd false .produce)) = some (3, [.half], []) ∧
      see (fun t => (t.wptr, t.fifo, t.schedule)) (step (compositeProd true .host)) = some (3, [.half], []) := by
  decide +kernel

/-- The erase of an `NV_WRITE` and the first step of an `OTP_WRITE` fail: the one locks again, the other does not. -/
theorem witness_CompositesEnd_failure :
    see (fun t => (t.rc, t.progress, t.lock, t.oblock))
        (step { compositeState with progress := some ⟨.nvWrite false 0x24 1 0 [7], 1⟩, drawTape := [1] }) =
      some (.writeFail, none, true, false) ∧
    see (fun t => (t.rc, t.progress, t.lock, t.oblock))
        (step { compositeState with progress := some ⟨.otpWrite (List.replicate 32 2), 1⟩, drawTape := [1] }) =
      some (.writeFail, none, false, false) := by decide +kernel

/-- What a test looks at in the state where a run has ended. -/
def seeEnd {α : Type} (f : State → α) : RunStatus → Option α
  | .ended t => some (f t)
  | _ => none

theorem witness_CompositesEnd_runs :
    ((arbiter 0 .notAvailable .notAvailable [] [.produce]).finished = true ∧
      (arbiter 0 .notAvailable .notAvailable [] [.produce]).turn ≠ .powerLoss) ∧
    seeEnd (fun t => (t.lock, t.hostPos)) (hostState.run 5) = some (false, 1) ∧
    (match ({ hostState with hostProgram := [.write 1 .w4 (.lit 0)] } : State).run 5 with
      | .faulted f t => decide (f = .misaligned (.host 1) ∧ t.lock = true)
      | _ => false) = true := by decide +kernel

/-- The PROD step a schedule names after HOST's last line belongs to the run, a power loss there does not (R176). -/
theorem test_run_takes_scheduled_prod :
    seeEnd (fun t => (t.wptr, t.schedule))
      (({ arbiter 0 .notAvailable .notAvailable [] [.host, .produce, .powerLoss] with
          hostProgram := [.write 0 .w4 (.lit 0x80)] } : State).run 9) = some (1, [.powerLoss]) := by decide +kernel

theorem witness_PowerLossKeepsOnlyNv :
    (∀ g ∈ [TornTarget.none, .bytes 0x24 2, .optBit 3],
      ({ base with schedule := [.powerLoss], tgt := g } : State).schedule = .powerLoss :: []) ∧
    see (fun t => (t.nv, t.lock))
      (step { base with schedule := [.powerLoss], tgt := .bytes 0x24 2, drawTape := [1, 8, 9] }) =
        some ([(0x24, 8), (0x25, 9)], true) := by decide +kernel

theorem witness_ProtectedSectorKeepsItsBytes :
    ({ hostState with nvWp := 8 } : State).cfg.valid = true ∧ 3 < ({ hostState with nvWp := 8 } : State).cfg.nvSectors ∧
      ({ hostState with nvWp := 8 } : State).nvWp.getLsbD 3 = true ∧ hostState.cfg.InSector 3 0x23F ∧
      ({ hostState with nvWp := 8 } : State).turn ≠ .powerLoss ∧
      (see (fun t => t.lock) (step { hostState with nvWp := 8 })).isSome = true := by decide +kernel

theorem witness_StepKeepsMemoriesCanonical :
    hostState.Canonical ∧ (see (fun t => t.lock) (step hostState)).isSome = true := by decide +kernel

theorem witness_StepKeepsTheArbiter :
    (arbiter 1 .notAvailable .notAvailable [] [.produce]).ArbiterInv ∧ hostState.ArbiterInv ∧
      (see (fun t => t.lock) (step (arbiter 1 .notAvailable .notAvailable [] [.produce]))).isSome = true := by decide +kernel

theorem witness_StepKeepsProtectionBits :
    ({ compositeState with nvWp := 8, nvOptWp := 8, tgt := .optBit 3 } : State).ProtectionInv ∧
      (see (fun t => t.lock) (step { compositeState with nvWp := 8, nvOptWp := 8, tgt := .optBit 3 })).isSome = true := by
  decide +kernel

theorem witness_StepKeepsTheUnits :
    ({ hostState with gz := goertzel0, fftLen := 16384, hannLen := 16384 } : State).UnitInv ∧
      (see (fun t => t.lock) (step { hostState with gz := goertzel0, fftLen := 16384, hannLen := 16384 })).isSome = true := by
  decide +kernel

theorem witness_EveryCompletionIsDeliveredOnce :
    (arbiter 0 .notAvailable .notAvailable [.half, .full] []).ArbiterInv ∧
      (arbiter 0 .notAvailable .notAvailable [.half, .full] []).armed = true ∧
      polledInTime false [.complete, .poll, .poll, .produce, .complete, .poll] = true ∧
      (arbiter 0 .notAvailable .notAvailable [.half, .full] []).performed
        [.complete, .poll, .poll, .produce, .complete, .poll] = [.first, .second] := by decide +kernel

theorem witness_MissedTraversalIsSilent :
    (arbiter 2 .first .first [.full, .half] []).ArbiterInv ∧ (arbiter 2 .first .first [.full, .half] []).armed = true ∧
      (arbiter 2 .first .first [.full, .half] []).active = (arbiter 2 .first .first [.full, .half] []).last ∧
      2 ≤ (arbiter 2 .first .first [.full, .half] []).fifo.length := by decide +kernel

theorem witness_RegisterMapReadsAndWrites :
    base.args[(7 : Fin 8)].written = false ∧ Instr.nvErase.wf base.cfg = true ∧ (0 : Fin 8) ∈ Instr.nvErase.argsRead ∧
      base.args[(0 : Fin 8)].written = false ∧
      (match ({ base with w32 := true, active := .second } : State).hostRead 0x010 .w4 with
        | .ok r => r == 1
        | .error _ => false) = true ∧
      (match ({ base with active := .second, last := .first } : State).hostRead 0x014 .w4 with
        | .ok r => r == 6
        | .error _ => false) = true := by decide +kernel

theorem witness_BadAccessesFault :
    registerAt ((0x01C : Int).toNat / 4 * 4) = none ∧ registerAt ((0x07C : Int).toNat / 4 * 4) = none ∧
      windowAt (0x0FFFFF : Int).toNat = none ∧ windowAt (0x230000 : Int).toNat = none ∧
      (registerAt (0x004 : Int).toNat).isSome = true ∧ (registerAt ((0x006 : Int).toNat / 4 * 4)).isSome = true ∧
      (0x006 : Int).toNat % 4 ≠ 0 ∧
      (windowAt (0x100400 : Int).toNat = some (.ring, 0x400) ∧ base.extent .ring < 0x400 + Width.w4.bytes ∧
        0x400 % Width.w4.bytes = 0) ∧
      (windowAt (0x1003FA : Int).toNat = some (.ring, 0x3FA) ∧ 0x3FA + Width.w4.bytes ≤ base.extent .ring ∧
        0x3FA % Width.w4.bytes ≠ 0) := by decide +kernel

theorem witness_WindowWriteThenRead :
    0x3FC % Width.w4.bytes = 0 ∧ 0x3FC + Width.w4.bytes ≤ base.cfg.ringBytes ∧ base.cfg.ringBytes ≤ 0x100000 ∧
      0x3FC + Width.w4.bytes ≤ base.cfg.xbufBytes ∧ base.cfg.xbufBytes ≤ 0x10000 ∧
      0xFFFC + Width.w4.bytes ≤ 4 * ({ base with fftLen := 16384 } : State).fftLen.toNat ∧ 0xFFFC < 0x10000 ∧
      0xFFFC + Width.w4.bytes ≤ 4 * ({ base with hannLen := 16384 } : State).hannLen.toNat := by decide +kernel

/-- Two-entry tables with the last entry written. -/
def tables : State := { base with fftLen := 2, tab := cellsAt 4 [1, 2, 3, 4], hannLen := 2, hcoef := cellsAt 4 [5, 6, 7, 8] }

theorem witness_WindowWriteThenRead_reads :
    (4 % Width.w4.bytes = 0 ∧ 4 + Width.w4.bytes ≤ 4 * tables.fftLen.toNat ∧ 4 + Width.w4.bytes ≤ 4 * tables.hannLen.toNat ∧
      4 + Width.w4.bytes ≤ 0x10000) ∧
    (∀ k, k < Width.w4.bytes → Memory.read unwritten tables.tab (4 + k) ≠ none ∧
      Memory.read unwritten tables.hcoef (4 + k) ≠ none) ∧
    (Memory.read unwritten tables.tab (0 + 3) = none ∧ Memory.read unwritten tables.hcoef (0 + 3) = none ∧
      Memory.read unwritten base.ring (0 + 3) = none ∧ Memory.read unwritten base.xbuf (0 + 3) = none) ∧
    (match tables.hostRead 0x210006 .w2 with
      | .ok r => r == 0x0403
      | .error _ => false) = true ∧
    (match tables.hostRead 0x220004 .w4 with
      | .ok r => r == 0x08070605
      | .error _ => false) = true := by decide +kernel

theorem witness_CommandsWriteOnlyNamedRegisters : see (fun t => t.rc) (exec .nvUnlock base) = some .ok := by decide +kernel

theorem witness_CommandsKeepOtherMemory :
    see channel (exec (.acqSetOffset .last 0) (putArg [1] (acq1 [3, 4]))) = some (some [4, 5]) := by decide +kernel

theorem witness_UnwrittenOperandsFault :
    faultOf (exec .crc4 (putArg [0] base)) = some (.unwrittenArg (.command base.cmd)) ∧
      (∃ n ∈ Instr.crc4.argsRead, (putArg [0] base).args[n].written = false) := by decide +kernel

/-- Four samples of which the one with index `n` is unwritten, `ARG0` = 1 and `ARG1` = 3. -/
def gap (n : Nat) : State := { putArg [1, 3] (acq1 [7, 7, 7, 7]) with ring := (acq1 [7, 7, 7, 7]).ring.filter fun c => c.1 / 2 != n }

theorem witness_UnwrittenOperandsFault_samples :
    (gap 3).Accepts .last 0 .first ∧ 3 < (gap 3).acqS.toNat ∧ (gap 3).SampleUnwritten .first 0 3 ∧ (gap 3).HasArg 0 1 ∧
      (gap 3).HasArg 1 3 ∧ (3 : Word).toNat < (gap 3).acqS.toNat ∧
      (gap 3).Samples .first 0 0 [7, 7, 7] ∧
      (∀ j, j ≤ 1 → 1 ≤ j → risingAt [7, 7, 7] j = risingAt [7, 7, 7] 0) ∧
      (gap 0).SampleUnwritten .first 0 0 ∧ (gap 0).Samples .first 0 1 [7, 7, 7] ∧
      (∀ j, j ≤ 1 → risingAt [7, 7, 7] j = risingAt [7, 7, 7] 1) ∧
      faultOf (exec (.acqPeakFwd .last 0) (gap 3)) = some (.unwrittenData (.command 0)) ∧
      faultOf (exec (.acqPeakRev .last 0) (gap 0)) = some (.unwrittenData (.command 0)) := by decide +kernel

theorem witness_UnwrittenOperandsFault_units :
    ((gap 0).Names .last 0 .first ∧ (gap 0).SampleUnwritten .first 0 0) ∧
    (({ gap 0 with hannLen := 4 } : State).hannLen ≠ 0 ∧ (gap 0).acqS.toNat ≤ (4 : Word).toNat ∧
      Memory.Missing ({ gap 0 with hannLen := 4 } : State).hcoef (4 * 3) 4) ∧
    (goertzel0.n ≠ 0 ∧ (1 : Word).toNat ≤ (gap 0).acqS.toNat ∧ 0 < (1 : Word).toNat) ∧
    (({ gap 0 with fftLen := 4 } : State).fftLen ≠ 0 ∧ (gap 0).w32 = false ∧ 4 ≤ (gap 0).acqS.toNat) := by decide +kernel

theorem witness_UnwrittenOperandsFault_tables :
    (tables.fftLen ≠ 0 ∧ (4 : Word).toNat ≤ 2 * tables.fftLen.toNat ∧ Memory.Missing tables.tab 0 (2 * (4 : Word).toNat)) ∧
    Memory.Missing (putXbuf (List.replicate 31 0) base).xbuf 0 32 ∧
    ((putArg [0x3FC, 4] base).HasArg 0 0x3FC ∧ (putArg [0x3FC, 4] base).HasArg 1 4 ∧
      (0x3FC : Word).toNat + (4 : Word).toNat ≤ base.cfg.xbufBytes ∧
      Memory.Missing base.xbuf (0x3FC : Word).toNat (4 : Word).toNat) ∧
    ((nvOpen [0x220, 4, 0]).HasArg 2 0 ∧ (nvOpen [0x220, 4, 0]).sectorOf 0x220 = 1 ∧ 0x220 + 4 + 4 ≤ cfg0.sb 1 + cfg0.sz 1 ∧
      Memory.Missing (nvOpen [0x220, 4, 0]).xbuf 0 4) := by decide +kernel

theorem witness_OnlyNamedOperandsAreRead :
    ∀ n ∈ Instr.nvErase.argsRead, (putArg [1, 7] base).args[n] = (putArg [1] base).args[n] := by decide +kernel

theorem witness_BoardInfoRecordsParseBack :
    (∀ rsv ∈ [0, 23], ({ cfg0 with otpV2Rsv := rsv } : Params).otpV2Rsv ≤ 23 ∧
      (List.replicate rsv (7 : Byte)).length = ({ cfg0 with otpV2Rsv := rsv } : Params).otpV2Rsv ∧
      (BoardInfo.record { cfg0 with otpV2Rsv := rsv } (List.replicate 32 0)
        (.v2 1 2 (List.replicate rsv 7) 3 4 0x12345678)).length = 32) ∧
    (List.replicate 32 (0 : Byte)).length = 32 := by decide +kernel

end Sys2Proof.Tests
end

section
/-! Proofs of the acquisition statements: `ACQ_INIT` (R74) and `ACQ_LOOP` (R75). -/

namespace Sys2Proof.Machine

/-! ### Operand reads -/

/-- An operand register that holds a value is read as that value (R17). -/
theorem State.withArg_of_hasArg {s : State} {n : Fin 8} {v : Word} (h : s.HasArg n v) (k : Word → Result) :
    s.withArg n k = k v := by
  have hw : s.args[n].written = true := by rw [h]
  rw [State.withArg_of_written hw, h]

/-- An operand read ends in the fault of unwritten operands when whatever follows a successful read does: the rule by
which the fault is carried outwards through a chain of operand reads. -/
theorem State.withArg_eq_unwrittenArg {s : State} {n : Fin 8} {k : Word → Result}
    (h : s.args[n].written = true → k s.args[n].value = .fault (.unwrittenArg (.command s.cmd))) :
    s.withArg n k = .fault (.unwrittenArg (.command s.cmd)) := by
  cases hw : s.args[n].written with
  | false => exact State.withArg_of_unwritten hw k
  | true => rw [State.withArg_of_written hw, h hw]

/-! ### `ACQ_INIT` (R74) -/

theorem exec_acqInit (s : State) : exec .acqInit s = execAcqInit s := rfl

/-- The reject list of R74, with the element size as `W / 8` of the width code's `W`. -/
theorem acqInitRejects_iff {cfg : Params} {c n w : Word} :
    acqInitRejects cfg (u32 c) (u32 n) (u32 w) = true ↔
      1 < w.toNat ∨ c.toNat = 0 ∨ 65536 < c.toNat ∨ n.toNat = 0 ∨
        cfg.ringBytes < 2 * c.toNat * n.toNat * (if w = 0 then 16 / 8 else 32 / 8) := by
  have hw : w.toNat = 0 ↔ w = 0 := BitVec.toNat_inj (y := 0#32)
  simp only [acqInitRejects, u32, decide_eq_true_eq, hw, Nat.reduceDiv]

/-- The state a good geometry leaves: recorded, with the producer armed at the start of an empty ring (R74). -/
def State.acqStart (s : State) (c n w : Word) : State :=
  { s with
    acqC := c, acqS := n, w32 := (w == 1), armed := true, wptr := 0, fifo := []
    active := .notAvailable, last := .notAvailable, rc := .ok }

/-- `ACQ_INIT` with its operands written is one test of the geometry. -/
theorem execAcqInit_of_hasArg {s : State} {c n w : Word} (hc : s.HasArg 0 c) (hn : s.HasArg 1 n) (hw : s.HasArg 2 w) :
    execAcqInit s =
      if acqInitRejects s.cfg (u32 c) (u32 n) (u32 w) = true then .next { s with rc := .arg }
      else .next (s.acqStart c n w) := by
  have hwidth : decide (u32 w = 1) = (w == 1) :=
    decide_eq_decide.mpr (BitVec.toNat_inj (y := 1#32))
  rw [execAcqInit, State.withArg_of_hasArg hc, State.withArg_of_hasArg hn, State.withArg_of_hasArg hw, hwidth]
  rfl

/-- `ACQ_INIT` reads all three operands before anything else, so each of them unwritten is a fault (R17, R74). -/
theorem execAcqInit_of_unwritten {s : State}
    (h : s.args[(0 : Fin 8)].written = false ∨ s.args[(1 : Fin 8)].written = false ∨
      s.args[(2 : Fin 8)].written = false) :
    execAcqInit s = .fault (.unwrittenArg (.command s.cmd)) := by
  refine State.withArg_eq_unwrittenArg fun h0 => State.withArg_eq_unwrittenArg fun h1 => ?_
  have h2 : s.args[(2 : Fin 8)].written = false :=
    (h.resolve_left (ne_true_of_eq_false · h0)).resolve_left (ne_true_of_eq_false · h1)
  exact State.withArg_of_unwritten h2 _

/-- Settles O8: R74's reject list decides between the two outcomes, and the operand reads that precede it carry the
fault. -/
theorem acqInitRecordsOrRejects : Obligations.AcqInitRecordsOrRejects := by
  refine ⟨fun s c n w hc hn hw => ?_, fun s h => (exec_acqInit s).trans (execAcqInit_of_unwritten h)⟩
  have hrun := (exec_acqInit s).trans (execAcqInit_of_hasArg hc hn hw)
  by_cases hbad : acqInitRejects s.cfg (u32 c) (u32 n) (u32 w) = true
  · rw [if_pos (acqInitRejects_iff.mp hbad), hrun, if_pos hbad]
  · rw [if_neg (mt acqInitRejects_iff.mpr hbad), hrun, if_neg hbad]
    rfl

/-! ### `ACQ_LOOP` (R75) -/

theorem exec_acqLoop (s : State) : exec .acqLoop s = execAcqLoop s := rfl

/-- A half not delivered yet is delivered: its number and the geometry in the RES registers, and `LAST` moved to it. -/
theorem execAcqLoop_of_ne {s : State} (h : s.active ≠ s.last) :
    execAcqLoop s =
      .next { (((s.setRes 0 1).setRes 1 (if s.active = .first then 0 else 1)).setRes 2 s.acqC).setRes 3 s.acqS with
              last := s.active, rc := .ok } :=
  if_pos h

/-- A half delivered already is not delivered again. -/
theorem execAcqLoop_of_eq {s : State} (h : s.active = s.last) :
    execAcqLoop s = .next { s.setRes 0 0 with rc := .ok } :=
  if_neg (not_not.mpr h)

/-- Settles O9: the two branches of R75's comparison. -/
theorem acqLoopDeliversOnce : Obligations.AcqLoopDeliversOnce := fun s =>
  ⟨fun h => (exec_acqLoop s).trans (execAcqLoop_of_ne h), fun h => (exec_acqLoop s).trans (execAcqLoop_of_eq h)⟩

end Sys2Proof.Machine
end

section
/-! Proofs of the lock statement: `NV_UNLOCK`, `NV_LOCK`, `NV_OB_UNLOCK` and `NV_OB_LOCK` (R141–R144). -/

namespace Sys2Proof.Machine

/-! ### The two locks (R141–R144)

None of the four commands looks at the lock it writes, so no case split on the lock's old value is needed: unlocking an
unlocked controller is the same write. -/

theorem exec_nvUnlock (s : State) : exec .nvUnlock s = execNvUnlock s := rfl

theorem exec_nvLock (s : State) : exec .nvLock s = execNvLock s := rfl

theorem exec_nvObUnlock (s : State) : exec .nvObUnlock s = execNvObUnlock s := rfl

theorem exec_nvObLock (s : State) : exec .nvObLock s = execNvObLock s := rfl

theorem execNvUnlock_eq (s : State) : execNvUnlock s = .next { s with lock := false, rc := .ok } :=
  State.finish_eq { s with lock := false } .ok

theorem execNvLock_eq (s : State) : execNvLock s = .next { s with lock := true, rc := .ok } :=
  State.finish_eq { s with lock := true } .ok

theorem execNvObUnlock_eq (s : State) : execNvObUnlock s = .next { s with oblock := false, rc := .ok } :=
  State.finish_eq { s with oblock := false } .ok

theorem execNvObLock_eq (s : State) : execNvObLock s = .next { s with oblock := true, rc := .ok } :=
  State.finish_eq { s with oblock := true } .ok

/-- Settles O34: each lock command is one unconditional write of its lock, ended with OK. -/
theorem lockCommandsSetTheLocks : Obligations.LockCommandsSetTheLocks := fun s =>
  ⟨(exec_nvUnlock s).trans (execNvUnlock_eq s), (exec_nvLock s).trans (execNvLock_eq s),
    (exec_nvObUnlock s).trans (execNvObUnlock_eq s), (exec_nvObLock s).trans (execNvObLock_eq s)⟩

end Sys2Proof.Machine
end


section
/-! Proofs of the encoding statements: words and commands determine each other (R59–R64, R67, R68). -/

namespace Sys2Proof

-- Many short elaborations at once would start a thread each.
set_option Elab.async false

/-! ### Taking words apart and putting them together (R59) -/

/-- Taking a word apart loses nothing. -/
theorem Fields.toWord_ofWord (v : Word) : (Fields.ofWord v).toWord = v := by
  apply BitVec.eq_of_getLsbD_eq
  intro i hi
  rw [Laws.getLsbD_toWord]
  simp only [Fields.ofWord, BitVec.getLsbD_extractLsb']
  split_ifs with h8 h10 h11 h12 h16
  · simp [h8]
  · simp [show i - 8 < 2 by omega, show 8 + (i - 8) = i by omega]
  · simp [show i - 10 < 1 by omega, show 10 + (i - 10) = i by omega]
  · simp [show i - 11 < 1 by omega, show 11 + (i - 11) = i by omega]
  · simp [show i - 12 < 4 by omega, show 12 + (i - 12) = i by omega]
  · simp [show i - 16 < 16 by omega, show 16 + (i - 16) = i by omega]

/-- The opcode of a word is its low byte. -/
theorem Fields.ofWord_op_toNat (v : Word) : (Fields.ofWord v).op.toNat = v.toNat % 256 := by
  simp [Fields.ofWord, BitVec.extractLsb'_toNat]

/-! ### Decoding what was encoded (R67) -/

/-- The fields of a command decode to it. -/
theorem decodeFields_fields (i : Instr) : decodeFields i.fields = some i := by
  open Laws in
  cases i with
  | acqInit => exact DecodeFields.acqInit
  | acqLoop => exact DecodeFields.acqLoop
  | acqMean h c => exact DecodeFields.acqMean h c
  | acqMeanLim h c => exact DecodeFields.acqMeanLim h c
  | acqMeanShift h c => exact DecodeFields.acqMeanShift h c
  | acqAbsMean h c => exact DecodeFields.acqAbsMean h c
  | acqRms h c => exact DecodeFields.acqRms h c
  | acqTrueRms h c => exact DecodeFields.acqTrueRms h c
  | acqMax h c => exact DecodeFields.acqMax h c
  | acqMin h c => exact DecodeFields.acqMin h c
  | acqSetOffset h c => exact DecodeFields.acqSetOffset h c
  | acqCma h c => exact DecodeFields.acqCma h c
  | acqPeakFwd h c => exact DecodeFields.acqPeakFwd h c
  | acqPeakRev h c => exact DecodeFields.acqPeakRev h c
  | acqSineWin h c => exact DecodeFields.acqSineWin h c
  | hannInit => exact DecodeFields.hannInit
  | hannApply h c => exact DecodeFields.hannApply h c
  | hannDirect h c => exact DecodeFields.hannDirect h c
  | bqInitBp j => exact DecodeFields.bqInitBp j
  | bqInitBs j => exact DecodeFields.bqInitBs j
  | bqInitLp j => exact DecodeFields.bqInitLp j
  | bqLoad j => exact DecodeFields.bqLoad j
  | bqStep j => exact DecodeFields.bqStep j
  | emaInitFc j => exact DecodeFields.emaInitFc j
  | emaInitAlpha j => exact DecodeFields.emaInitAlpha j
  | emaStep j => exact DecodeFields.emaStep j
  | notchInit j => exact DecodeFields.notchInit j
  | notchStep j => exact DecodeFields.notchStep j
  | cbInit j => exact DecodeFields.cbInit j
  | cbPush j => exact DecodeFields.cbPush j
  | cbGet j => exact DecodeFields.cbGet j
  | cbMean j => exact DecodeFields.cbMean j
  | cbMax j => exact DecodeFields.cbMax j
  | arrMax j => exact DecodeFields.arrMax j
  | arrMin j => exact DecodeFields.arrMin j
  | arrSum j => exact DecodeFields.arrSum j
  | arrMean j => exact DecodeFields.arrMean j
  | maInit j => exact DecodeFields.maInit j
  | maMean j => exact DecodeFields.maMean j
  | maVar j => exact DecodeFields.maVar j
  | maStd j => exact DecodeFields.maStd j
  | gzInit => exact DecodeFields.gzInit
  | gzFeed h c => exact DecodeFields.gzFeed h c
  | fftInit => exact DecodeFields.fftInit
  | fftRun h c => exact DecodeFields.fftRun h c
  | fftAbsMax f0 => exact DecodeFields.fftAbsMax f0
  | crc4 => exact DecodeFields.crc4
  | crc8 => exact DecodeFields.crc8
  | crc32 => exact DecodeFields.crc32
  | nvUnlock => exact DecodeFields.nvUnlock
  | nvLock => exact DecodeFields.nvLock
  | nvObUnlock => exact DecodeFields.nvObUnlock
  | nvObLock => exact DecodeFields.nvObLock
  | nvWpSet f0 => exact DecodeFields.nvWpSet f0
  | nvObLaunch => exact DecodeFields.nvObLaunch
  | nvErase => exact DecodeFields.nvErase
  | nvProgByte => exact DecodeFields.nvProgByte
  | nvProgWord => exact DecodeFields.nvProgWord
  | nvReadByte => exact DecodeFields.nvReadByte
  | nvRead f0 => exact DecodeFields.nvRead f0
  | nvWrite f0 => exact DecodeFields.nvWrite f0
  | otpRead => exact DecodeFields.otpRead
  | otpWrite => exact DecodeFields.otpWrite

/-- The word of a command decodes to it, before the slot check. -/
theorem decodeWord_encode (i : Instr) : decodeWord (encode i) = some i := by
  rw [decodeWord, encode, Laws.fields_ofWord_toWord, decodeFields_fields]

/-- What `decode` answers is what the word encodes, if the block has its slot (R68). -/
theorem decode_eq_some {p : Params} {v : Word} {i : Instr} :
    decode p v = some i ↔ decodeWord v = some i ∧ i.wf p = true := by
  unfold decode
  cases decodeWord v with
  | none => simp
  | some k =>
    by_cases hk : k.wf p = true
    · simp only [hk, if_true, Option.some.injEq]
      exact ⟨fun h => ⟨h, h ▸ hk⟩, And.left⟩
    · simp only [hk, Option.some.injEq]
      exact ⟨fun h => by simp at h, fun ⟨h, hi⟩ => absurd (h ▸ hi) hk⟩

/-- A word that encodes no command does not decode, whatever the parameters. -/
theorem decode_of_decodeWord_none {p : Params} {v : Word} (h : decodeWord v = none) : decode p v = none := by
  rw [decode, h]

/-- Settles O2: taking the encoded word apart gives the command's fields back, and those decode per command. -/
theorem decodeOfEncode : Obligations.DecodeOfEncode := fun _ i hwf =>
  decode_eq_some.mpr ⟨decodeWord_encode i, hwf⟩

/-! ### Encoding what was decoded (R67, R68) -/

/-- The commands a format makes have the opcode `op` and the format's fields. -/
def Format.Encodes (op : BitVec 8) : Format → Prop
  | .plain i => i.fields = .plain op
  | .halfCh mk => ∀ h c, (mk h c).fields = .halfCh op h c
  | .slot mk => ∀ j, (mk j).fields = .slotted op j
  | .flag mk => ∀ f0, (mk f0).fields = .flagged op f0

/-- The opcode map and the encoder agree, opcode by opcode. -/
theorem formatOf_encodes {n : Nat} {fmt : Format} (h : formatOf n = some fmt) : fmt.Encodes (BitVec.ofNat 8 n) := by
  unfold formatOf at h
  split at h <;> cases h <;> simp only [Format.Encodes] <;> intros <;> rfl

/-- A `HALF` field that names a half selector is its bits (R61). -/
theorem halfSelOf_eq_some {b : BitVec 2} {h : HalfSel} (hb : halfSelOf b = some h) : h.bits = b := by
  revert b h; decide

/-- A flag field is the bit of the flag it names (R64). -/
theorem ofBool_beq_one : ∀ b : BitVec 1, BitVec.ofBool (b == 1#1) = b := by decide

/-- Fields that decode are the fields of the command they decode to: every unused one is 0. -/
theorem fields_of_decodeFields {f : Fields} {i : Instr} (h : decodeFields f = some i) : i.fields = f := by
  obtain ⟨op, half, f0, f1, slot, ch⟩ := f
  unfold decodeFields at h
  have hf1 : f1 = 0 := by
    by_contra hne
    rw [if_pos (bne_iff_ne.mpr hne)] at h
    cases h
  cases hfmt : formatOf op.toNat with
  | none => simp [hf1, hfmt] at h
  | some fmt =>
    have henc : fmt.Encodes op := by simpa using formatOf_encodes hfmt
    cases fmt with
    | plain k =>
      simp [hf1, hfmt] at h
      obtain ⟨⟨⟨⟨rfl, rfl⟩, rfl⟩, rfl⟩, rfl⟩ := h
      rw [henc, hf1]; rfl
    | halfCh mk =>
      simp [hf1, hfmt] at h
      obtain ⟨⟨rfl, rfl⟩, hs, hsel, rfl⟩ := h
      rw [henc, hf1, Fields.halfCh, halfSelOf_eq_some hsel]; rfl
    | slot mk =>
      simp [hf1, hfmt] at h
      obtain ⟨⟨⟨rfl, rfl⟩, rfl⟩, rfl⟩ := h
      rw [henc, hf1]; rfl
    | flag mk =>
      simp [hf1, hfmt] at h
      obtain ⟨⟨⟨rfl, rfl⟩, rfl⟩, rfl⟩ := h
      rw [henc, hf1, Fields.flagged, ofBool_beq_one]; rfl

/-- A word that encodes a command is the word of that command. -/
theorem encode_of_decodeWord {v : Word} {i : Instr} (h : decodeWord v = some i) : encode i = v := by
  rw [encode, fields_of_decodeFields h, Fields.toWord_ofWord]

/-- Settles O3: fields that decode are those of their command, so the word is put together from them. -/
theorem decodedWordIsItsEncoding : Obligations.DecodedWordIsItsEncoding := fun _ _ _ h =>
  have ⟨hword, hwf⟩ := decode_eq_some.mp h
  ⟨encode_of_decodeWord hword, hwf⟩

/-! ### Reserved words (R61, R64, R68) -/

/-- A reserved opcode has no format. -/
theorem formatOf_reserved {n : Nat} (h : n ∈ Machine.reservedOpcodes) : formatOf n = none := by
  have hall : ∀ n ∈ Machine.reservedOpcodes, (formatOf n).isNone = true := by decide +kernel
  exact Option.isNone_iff_eq_none.mp (hall n h)

/-- Fields with an opcode of no format do not decode. -/
theorem decodeFields_of_formatOf_none {f : Fields} (h : formatOf f.op.toNat = none) : decodeFields f = none := by
  simp [decodeFields, h]

/-- Fields with `F1` set do not decode (R64). -/
theorem decodeFields_of_f1 {f : Fields} (h : f.f1 ≠ 0) : decodeFields f = none := by
  rw [decodeFields, if_pos (bne_iff_ne.mpr h)]

/-- Fields with `HALF` = 3 do not decode: no half selector has these bits, and elsewhere `HALF` is unused (R61). -/
theorem decodeFields_of_half {f : Fields} (h : f.half = 3) : decodeFields f = none := by
  unfold decodeFields
  cases formatOf f.op.toNat with
  | none => simp
  | some fmt => cases fmt <;> simp [h, halfSelOf]

/-- Settles O4: the opcode map leaves the reserved opcodes out, and no command has `F1` set or `HALF` = 3. -/
theorem reservedWordsDoNotDecode : Obligations.ReservedWordsDoNotDecode := fun _ v h => by
  apply decode_of_decodeWord_none
  rcases h with hop | hf1 | hhalf
  · apply decodeFields_of_formatOf_none
    rw [Fields.ofWord_op_toNat]
    exact formatOf_reserved hop
  · refine decodeFields_of_f1 fun hzero => ?_
    have hbit : (v.extractLsb' 11 1).getLsbD 0 = false := by rw [show v.extractLsb' 11 1 = 0 from hzero]; rfl
    rw [BitVec.getLsbD_extractLsb'] at hbit
    exact Bool.noConfusion (hf1.symm.trans hbit)
  · exact decodeFields_of_half hhalf

/-- Settles O1: each of the twelve words is the encoding of the command it stands for. -/
theorem specWordsDecode : Obligations.SpecWordsDecode :=
  ⟨decodeWord_encode .acqInit, decodeWord_encode (.acqMean .second 1), decodeWord_encode (.acqMean .last 0),
    decodeWord_encode (.hannApply .last 0), decodeWord_encode (.emaInitAlpha 0), decodeWord_encode (.cbInit 1),
    decodeWord_encode .gzInit, decodeWord_encode (.fftRun .last 1), decodeWord_encode (.fftAbsMax true),
    decodeWord_encode .crc32, decodeWord_encode (.nvWpSet true), decodeWord_encode .otpRead⟩

end Sys2Proof
end


section
/-! What a command can do, said once for all 63: which fields it may change and how (`CommandCore`), which result registers
and result code it answers with (`CommandEffect`), and that with its operands written it has no other outcome but the fault
of unwritten data (`Completes`). Every invariant and frame below is a case analysis of `CommandCore`. -/

namespace Sys2Proof.Machine

-- Many short elaborations at once would start a thread each.
set_option Elab.async false

/-! ### The meaning `exec` calls for each command -/

theorem exec_acqMean (s : State) (h : HalfSel) (c : Chan) : exec (.acqMean h c) s = execAcqMean h c s := rfl
theorem exec_acqMeanLim (s : State) (h : HalfSel) (c : Chan) : exec (.acqMeanLim h c) s = execAcqMeanLim h c s := rfl
theorem exec_acqMeanShift (s : State) (h : HalfSel) (c : Chan) : exec (.acqMeanShift h c) s = execAcqMeanShift h c s := rfl
theorem exec_acqAbsMean (s : State) (h : HalfSel) (c : Chan) : exec (.acqAbsMean h c) s = execAcqAbsMean h c s := rfl
theorem exec_acqRms (s : State) (h : HalfSel) (c : Chan) : exec (.acqRms h c) s = execAcqRms h c s := rfl
theorem exec_acqTrueRms (s : State) (h : HalfSel) (c : Chan) : exec (.acqTrueRms h c) s = execAcqTrueRms h c s := rfl
theorem exec_acqMax (s : State) (h : HalfSel) (c : Chan) : exec (.acqMax h c) s = execAcqMax h c s := rfl
theorem exec_acqMin (s : State) (h : HalfSel) (c : Chan) : exec (.acqMin h c) s = execAcqMin h c s := rfl
theorem exec_acqSetOffset (s : State) (h : HalfSel) (c : Chan) : exec (.acqSetOffset h c) s = execAcqSetOffset h c s := rfl
theorem exec_acqCma (s : State) (h : HalfSel) (c : Chan) : exec (.acqCma h c) s = execAcqCma h c s := rfl
theorem exec_acqPeakFwd (s : State) (h : HalfSel) (c : Chan) : exec (.acqPeakFwd h c) s = execAcqPeakFwd h c s := rfl
theorem exec_acqPeakRev (s : State) (h : HalfSel) (c : Chan) : exec (.acqPeakRev h c) s = execAcqPeakRev h c s := rfl
theorem exec_acqSineWin (s : State) (h : HalfSel) (c : Chan) : exec (.acqSineWin h c) s = execAcqSineWin h c s := rfl
theorem exec_hannInit (s : State) : exec .hannInit s = execHannInit s := rfl
theorem exec_hannApply (s : State) (h : HalfSel) (c : Chan) : exec (.hannApply h c) s = execHannApply h c s := rfl
theorem exec_hannDirect (s : State) (h : HalfSel) (c : Chan) : exec (.hannDirect h c) s = execHannDirect h c s := rfl
theorem exec_bqInitBp (s : State) (j : Slot) : exec (.bqInitBp j) s = execBqInitBp j s := rfl
theorem exec_bqInitBs (s : State) (j : Slot) : exec (.bqInitBs j) s = execBqInitBs j s := rfl
theorem exec_bqInitLp (s : State) (j : Slot) : exec (.bqInitLp j) s = execBqInitLp j s := rfl
theorem exec_bqLoad (s : State) (j : Slot) : exec (.bqLoad j) s = execBqLoad j s := rfl
theorem exec_bqStep (s : State) (j : Slot) : exec (.bqStep j) s = execBqStep j s := rfl
theorem exec_emaInitFc (s : State) (j : Slot) : exec (.emaInitFc j) s = execEmaInitFc j s := rfl
theorem exec_emaInitAlpha (s : State) (j : Slot) : exec (.emaInitAlpha j) s = execEmaInitAlpha j s := rfl
theorem exec_emaStep (s : State) (j : Slot) : exec (.emaStep j) s = execEmaStep j s := rfl
theorem exec_notchInit (s : State) (j : Slot) : exec (.notchInit j) s = execNotchInit j s := rfl
theorem exec_notchStep (s : State) (j : Slot) : exec (.notchStep j) s = execNotchStep j s := rfl
theorem exec_cbInit (s : State) (j : Slot) : exec (.cbInit j) s = execCbInit j s := rfl
theorem exec_cbPush (s : State) (j : Slot) : exec (.cbPush j) s = execCbPush j s := rfl
theorem exec_cbGet (s : State) (j : Slot) : exec (.cbGet j) s = execCbGet j s := rfl
theorem exec_cbMean (s : State) (j : Slot) : exec (.cbMean j) s = execCbMean j s := rfl
theorem exec_cbMax (s : State) (j : Slot) : exec (.cbMax j) s = execCbMax j s := rfl
theorem exec_arrMax (s : State) (j : Slot) : exec (.arrMax j) s = execArrMax j s := rfl
theorem exec_arrMin (s : State) (j : Slot) : exec (.arrMin j) s = execArrMin j s := rfl
theorem exec_arrSum (s : State) (j : Slot) : exec (.arrSum j) s = execArrSum j s := rfl
theorem exec_arrMean (s : State) (j : Slot) : exec (.arrMean j) s = execArrMean j s := rfl
theorem exec_maInit (s : State) (j : Slot) : exec (.maInit j) s = execMaInit j s := rfl
theorem exec_maMean (s : State) (j : Slot) : exec (.maMean j) s = execMaMean j s := rfl
theorem exec_maVar (s : State) (j : Slot) : exec (.maVar j) s = execMaVar j s := rfl
theorem exec_maStd (s : State) (j : Slot) : exec (.maStd j) s = execMaStd j s := rfl
theorem exec_gzInit (s : State) : exec .gzInit s = execGzInit s := rfl
theorem exec_gzFeed (s : State) (h : HalfSel) (c : Chan) : exec (.gzFeed h c) s = execGzFeed h c s := rfl
theorem exec_fftInit (s : State) : exec .fftInit s = execFftInit s := rfl
theorem exec_fftRun (s : State) (h : HalfSel) (c : Chan) : exec (.fftRun h c) s = execFftRun h c s := rfl
theorem exec_fftAbsMax (s : State) (f0 : Bool) : exec (.fftAbsMax f0) s = execFftAbsMax f0 s := rfl
theorem exec_crc4 (s : State) : exec .crc4 s = execCrc4 s := rfl
theorem exec_crc8 (s : State) : exec .crc8 s = execCrc8 s := rfl
theorem exec_crc32 (s : State) : exec .crc32 s = execCrc32 s := rfl
theorem exec_nvWpSet (s : State) (f0 : Bool) : exec (.nvWpSet f0) s = execNvWpSet f0 s := rfl
theorem exec_nvObLaunch (s : State) : exec .nvObLaunch s = execNvObLaunch s := rfl
theorem exec_nvErase (s : State) : exec .nvErase s = execNvErase s := rfl
theorem exec_nvProgByte (s : State) : exec .nvProgByte s = execNvProgByte s := rfl
theorem exec_nvProgWord (s : State) : exec .nvProgWord s = execNvProgWord s := rfl
theorem exec_nvReadByte (s : State) : exec .nvReadByte s = execNvReadByte s := rfl
theorem exec_nvRead (s : State) (f0 : Bool) : exec (.nvRead f0) s = execNvRead f0 s := rfl
theorem exec_nvWrite (s : State) (f0 : Bool) : exec (.nvWrite f0) s = execNvWrite f0 s := rfl
theorem exec_otpRead (s : State) : exec .otpRead s = execOtpRead s := rfl
theorem exec_otpWrite (s : State) : exec .otpWrite s = execOtpWrite s := rfl

/-! ### Outcomes -/

/-- The command completes in a state that meets `P`, or faults for unwritten data; it is not refused and faults for nothing
else. -/
def Completes (cmd : Word) (P : State → Prop) : Result → Prop
  | .next t => P t
  | .fault f => f = .unwrittenData (.command cmd)
  | .refused _ => False

theorem Completes.of_next {cmd : Word} {P : State → Prop} {r : Result} {t : State} (h : Completes cmd P r)
    (hr : r = .next t) : P t := by
  subst hr; exact h

theorem Completes.withData {α : Type} {s : State} {P : State → Prop} {x : Option α} {k : α → Result}
    (h : ∀ v, x = some v → Completes s.cmd P (k v)) : Completes s.cmd P (s.withData x k) := by
  cases x with
  | none => exact rfl
  | some v => exact h v rfl

theorem Completes.ite {cmd : Word} {P : State → Prop} {c : Prop} [Decidable c] {a b : Result}
    (ha : c → Completes cmd P a) (hb : ¬c → Completes cmd P b) : Completes cmd P (if c then a else b) := by
  split
  · exact ha ‹_›
  · exact hb ‹_›

theorem Completes.accessor {s : State} {P : State → Prop} {h : HalfSel} {c : Chan} {dflt : Result} {work : Half → Result}
    (hd : Completes s.cmd P dflt)
    (hw : ∀ hf, s.resolveHalf h = some hf → Completes s.cmd P (work hf)) :
    Completes s.cmd P (s.accessor h c dflt work) := by
  rcases s.accessor_cases h c dflt work with ⟨-, heq⟩ | ⟨hf, hacc, heq⟩ <;> rw [heq]
  · exact hd
  · exact hw hf (State.accessorHalf_eq_some.mp hacc).2.2

/-- The operands of a command are written. -/
def Instr.ArgsWritten (i : Instr) (s : State) : Prop := ∀ n ∈ i.argsRead, s.args[n].written = true

theorem State.hasArg_value {s : State} {n : Fin 8} (h : s.args[n].written = true) : s.HasArg n s.args[n].value := by
  unfold State.HasArg
  cases hr : s.args[n] with
  | mk v w => rw [hr] at h; simp_all

theorem Completes.withArg {s : State} {P : State → Prop} {i : Instr} (n : Fin 8) {k : Word → Result}
    (hi : Instr.ArgsWritten i s) (h : ∀ v, s.HasArg n v → Completes s.cmd P (k v))
    (hn : n ∈ i.argsRead := by simp [Instr.argsRead]) : Completes s.cmd P (s.withArg n k) := by
  rw [State.withArg_of_written (hi n hn)]
  exact h _ (State.hasArg_value (hi n hn))

/-! ### Result registers -/

/-- Only result registers of `l` differ. -/
def ResFrame (l : List (Fin 4)) (r r' : Vector MarkedReg 4) : Prop := ∀ n : Fin 4, n ∉ l → r'[n] = r[n]

theorem ResFrame.refl {l : List (Fin 4)} (r : Vector MarkedReg 4) : ResFrame l r r := fun _ _ => rfl

theorem ResFrame.set {l : List (Fin 4)} {r r' : Vector MarkedReg 4} (h : ResFrame l r r') (k : Fin 4) (v : MarkedReg)
    (hk : k ∈ l := by simp [Instr.resWritten]) : ResFrame l r (r'.set k v) := by
  intro n hn
  have hne : k.val ≠ n.val := fun he => hn (Fin.ext he ▸ hk)
  rw [← h n hn]
  exact Vector.getElem_set_ne _ _ hne

/-! ### The effect of a command -/

/-- The commands that rewrite the channel `c` of the half operand `h` (R86, R87, R95, R96). -/
def Instr.Mutates (i : Instr) (h : HalfSel) (c : Chan) : Prop :=
  i = .acqSetOffset h c ∨ i = .acqCma h c ∨ i = .hannApply h c ∨ i = .hannDirect h c

/-- The Goertzel counter is in range (R33). -/
def Goertzel.InRange (g : Goertzel) : Prop := if g.n = 0 then g.cnt = 0 else g.cnt.toNat < g.n.toNat

/-- The array of a moving average is in form and its length is not 1 (R36, R128). -/
def MovAvg.Ok (m : MovAvg) (cap : Nat) : Prop := m.cb.Ok cap ∧ m.cb.len ≠ 1

/-- What a command changes of a state besides result registers, result code and draws: nothing, or the fields of its unit. -/
inductive CommandCore (s : State) : Instr → State → Prop
  | same (i : Instr) : CommandCore s i s
  | acqStart {c n w : Word} (hrej : ¬acqInitRejects s.cfg (u32 c) (u32 n) (u32 w) = true) :
      CommandCore s .acqInit (s.acqStart c n w)
  | deliver : CommandCore s .acqLoop { s with last := s.active }
  | channel {i : Instr} {h : HalfSel} {c : Chan} {hf : Half} {r : Memory} (hi : Instr.Mutates i h c)
      (hhalf : s.resolveHalf h = some hf) (hwf : Memory.wf unwritten s.ring → Memory.wf unwritten r)
      (hout : ∀ a, ¬s.InChannel hf c a → Memory.read unwritten r a = Memory.read unwritten s.ring a) :
      CommandCore s i { s with ring := r }
  | hannTable {len : Word} {bs : List Byte} (harg : s.HasArg 0 len) (hmax : len.toNat ≤ s.cfg.hannMax)
      (hbs : bs.length = 4 * len.toNat) :
      CommandCore s .hannInit { s with hcoef := Memory.setRange unwritten s.hcoef 0 bs, hannLen := len }
  | biquad {i : Instr} (j : Slot) (f : Biquad) : CommandCore s i (s.setBq j f)
  | ema {i : Instr} (j : Slot) (f : Ema) : CommandCore s i (s.setEma j f)
  | notch {i : Instr} (j : Slot) (f : Notch) : CommandCore s i (s.setNotch j f)
  | circBuf {i : Instr} {j : Slot} {b : CircBuf} (hok : (s.cbSlot j).Ok s.cfg.cbMaxL → b.Ok s.cfg.cbMaxL) :
      CommandCore s i (s.setCb j b)
  | movAvg {i : Instr} {j : Slot} {m : MovAvg} (hok : (s.maSlot j).Ok s.cfg.maMaxL → m.Ok s.cfg.maMaxL) :
      CommandCore s i (s.setMa j m)
  | goertzel {i : Instr} {g : Goertzel} (hcnt : s.gz.InRange → g.InRange) : CommandCore s i { s with gz := g }
  | fftClear {len : Word} (harg : s.HasArg 0 len) (hlen : len.toNat ∈ s.cfg.fftLengths) :
      CommandCore s .fftInit { s with fftLen := len, tab := Memory.clearRange s.tab 0 (4 * len.toNat) }
  | fftTable {h : HalfSel} {c : Chan} {bs : List Byte} (hbs : bs.length = 4 * s.fftLen.toNat) :
      CommandCore s (.fftRun h c) { s with tab := Memory.setRange unwritten s.tab 0 bs }
  | nvRead {f0 : Bool} {n xo : Word} {bs : List Byte} (hn : s.HasArg 1 n) (hxo : s.HasArg 2 xo) (hbs : bs.length = n.toNat) :
      CommandCore s (.nvRead f0) (s.setXbuf xo.toNat bs)
  | otpRead {bs : List Byte} (hbs : bs.length = 32) : CommandCore s .otpRead (s.setXbuf 0 bs)
  | locks {i : Instr} (l o : Bool) : CommandCore s i { s with lock := l, oblock := o }
  | optBit {i : Instr} {k : Nat} {b : Bool} (hk : k < s.cfg.nvSectors) :
      CommandCore s i ((s.setTgt (.optBit k)).setOptWp (setBit s.nvOptWp k b))
  | launch {i : Instr} : CommandCore s i (s.setWp s.nvOptWp)
  | erase {k : Word} {bs : List Byte} (harg : s.HasArg 0 k) (hk : k.toNat < s.cfg.nvSectors)
      (hwp : s.wpBit k.toNat = false) (hbs : bs.length = s.cfg.sz k.toNat) :
      CommandCore s .nvErase ((s.setTgt (.bytes (s.cfg.sb k.toNat) (s.cfg.sz k.toNat))).setNv (s.cfg.sb k.toNat) bs)
  | program {i : Instr} {a : Word} {bs : List Byte} (harg : s.HasArg 0 a)
      (hi : (i = .nvProgByte ∧ bs.length = 1) ∨ (i = .nvProgWord ∧ bs.length = 4 ∧ a.toNat % 4 = 0))
      (hwp : s.wpBit (s.sectorOf a.toNat) = false) (hin : a.toNat + bs.length ≤ s.cfg.nvBytes) :
      CommandCore s i ((s.setTgt (.bytes a.toNat bs.length)).setNv a.toNat bs)
  | nvWrite {f0 : Bool} {a n xo : Word} {p : List Byte} (hfits : (Composite.nvWrite f0 a n xo p).fits s.cfg = true) :
      CommandCore s (.nvWrite f0) (s.nvWriteBegin f0 a n xo p)
  | otpWrite {r : List Byte} (hr : r.length = 32) :
      CommandCore s .otpWrite { s with lock := false, oblock := false, progress := some ⟨.otpWrite r, 1⟩ }

/-- The result code is one of the command's, or the old one while the command's composite is in progress (R12, R160). -/
def CodeOf (i : Instr) (s u : State) (rc : ResultCode) : Prop :=
  rc ∈ i.codes ∨ (rc = s.rc ∧ u.progress.isSome = true ∧ (i = .otpWrite ∨ ∃ f0, i = .nvWrite f0))

/-- What a command leaves: the change of `CommandCore`, its result registers, its result code, and draws taken. -/
def CommandEffect (i : Instr) (s t : State) : Prop :=
  ∃ u res rc tape count, CommandCore s i u ∧ ResFrame i.resWritten s.res res ∧ CodeOf i s u rc ∧
    t = { u with res := res, rc := rc, drawTape := tape, drawCount := count }

theorem CommandEffect.intro {i : Instr} {s u t : State} (hcore : CommandCore s i u)
    (ht : t = { u with res := t.res, rc := t.rc, drawTape := t.drawTape, drawCount := t.drawCount })
    (hres : ResFrame i.resWritten s.res t.res) (hcode : t.rc ∈ i.codes := by simp [Instr.codes]) : CommandEffect i s t :=
  ⟨u, t.res, t.rc, t.drawTape, t.drawCount, hcore, hres, .inl hcode, ht⟩

section answers

variable {i : Instr} {s u : State}

/-- Ending a command with a code, after a change of its unit's fields. -/
theorem completes_finish {code : ResultCode} (hcore : CommandCore s i u) (hres : u.res = s.res := by rfl)
    (hcode : code ∈ i.codes := by simp [Instr.codes]) : Completes s.cmd (CommandEffect i s) (u.finish code) :=
  CommandEffect.intro (t := { u with rc := code }) hcore rfl (by rw [hres]; exact .refl _) hcode

/-- Ending a command with a word in `RES0`. -/
theorem completes_finish32 {r : Word} (hcore : CommandCore s i u) (hres : u.res = s.res := by rfl)
    (h0 : (0 : Fin 4) ∈ i.resWritten := by simp [Instr.resWritten]) (hcode : .ok ∈ i.codes := by simp [Instr.codes]) :
    Completes s.cmd (CommandEffect i s) (u.finish32 r) :=
  CommandEffect.intro (t := { u.setRes 0 r with rc := .ok }) hcore rfl (by rw [State.setRes_res, hres]; exact .set (.refl _) 0 _ h0) hcode

/-- Ending a command with words in `RES0` and `RES1`. -/
theorem completes_finish_two {r0 r1 : Word} {code : ResultCode} (hcore : CommandCore s i u) (hres : u.res = s.res := by rfl)
    (h0 : (0 : Fin 4) ∈ i.resWritten := by simp [Instr.resWritten]) (h1 : (1 : Fin 4) ∈ i.resWritten := by simp [Instr.resWritten])
    (hcode : code ∈ i.codes := by simp [Instr.codes]) :
    Completes s.cmd (CommandEffect i s) (((u.setRes 0 r0).setRes 1 r1).finish code) :=
  CommandEffect.intro (t := { (u.setRes 0 r0).setRes 1 r1 with rc := code }) hcore rfl
    (by rw [State.setRes_res, State.setRes_res, hres]; exact .set (.set (.refl _) 0 _ h0) 1 _ h1) hcode

/-- Ending a command with a 64-bit value. -/
theorem completes_finish64 {r : BitVec 64} (hcore : CommandCore s i u) (hres : u.res = s.res := by rfl)
    (h0 : (0 : Fin 4) ∈ i.resWritten := by simp [Instr.resWritten]) (h1 : (1 : Fin 4) ∈ i.resWritten := by simp [Instr.resWritten])
    (hcode : .ok ∈ i.codes := by simp [Instr.codes]) : Completes s.cmd (CommandEffect i s) (u.finish64 r) :=
  completes_finish_two hcore hres h0 h1 hcode

end answers

end Sys2Proof.Machine
end


section
/-! The samples of a channel (R45): what reading and storing several of them does. -/

namespace Sys2Proof.Machine

-- Many short elaborations at once would start a thread each.
set_option Elab.async false

/-! ### Reading samples -/

/-- Reading samples succeeds exactly when each of them is readable, and gives each of them. -/
theorem State.samples?_eq_some {s : State} {h : Half} {c lo n : Nat} {xs : List Int} :
    s.samples? h c lo n = some xs ↔ xs.length = n ∧ ∀ i, i < n → s.sample? h (lo + i) c = xs[i]? := by
  induction n generalizing lo xs with
  | zero =>
    rw [State.samples?, Option.some.injEq]
    exact ⟨fun h => h ▸ ⟨rfl, fun i hi => absurd hi (by omega)⟩, fun h => (List.eq_nil_of_length_eq_zero h.1).symm⟩
  | succ n ih =>
    rw [State.samples?]
    constructor
    · intro hx
      split at hx
      · rename_i x ys hx0 hys
        cases hx
        obtain ⟨hl, hr⟩ := ih.mp hys
        refine ⟨by simp [hl], fun i hi => ?_⟩
        cases i with
        | zero => simpa using hx0
        | succ i => rw [show lo + (i + 1) = lo + 1 + i by omega, hr i (by omega)]; simp
      · cases hx
    · rintro ⟨hl, hr⟩
      cases xs with
      | nil => simp at hl
      | cons x ys =>
        have hx0 : s.sample? h lo c = some x := hr 0 (by omega)
        have hys : s.samples? h c (lo + 1) n = some ys := by
          refine ih.mpr ⟨by simpa using hl, fun i hi => ?_⟩
          rw [show lo + 1 + i = lo + (i + 1) by omega, hr (i + 1) (by omega)]; simp
        rw [hx0, hys]

/-- Samples that are written are read (R45, R76). -/
theorem State.samples?_of_samples {s : State} {hf : Half} {c : Chan} {lo n : Nat} {xs : List Int} (hl : xs.length = n)
    (h : s.Samples hf c lo xs) : s.samples? hf c.toNat lo n = some xs :=
  State.samples?_eq_some.mpr ⟨hl, fun i hi => h i (by omega)⟩

theorem State.length_of_samples? {s : State} {h : Half} {c lo n : Nat} {xs : List Int}
    (hx : s.samples? h c lo n = some xs) : xs.length = n := (State.samples?_eq_some.mp hx).1

/-- Reading samples does not look at the draws. -/
theorem State.samples?_withDraws (s : State) (t : List Nat) (n : Nat) (h : Half) (c lo k : Nat) :
    (s.withDraws t n).samples? h c lo k = s.samples? h c lo k := by
  induction k generalizing lo with
  | zero => rfl
  | succ k ih => rw [State.samples?, State.samples?, ih]; rfl

/-! ### Where samples lie -/

theorem State.elemBytes_pos (s : State) : 0 < s.elemBytes := by unfold State.elemBytes; split <;> decide

/-- Different samples of a channel do not overlap (R45). -/
theorem State.sampleAddr_disjoint {s : State} (h : Half) {i j c : Nat} (hC : 0 < s.acqC.toNat) (hij : i < j) :
    s.sampleAddr h i c + s.elemBytes ≤ s.sampleAddr h j c := by
  have hmul : i * s.acqC.toNat + s.acqC.toNat ≤ j * s.acqC.toNat := by
    rw [← Nat.succ_mul]; exact Nat.mul_le_mul_right _ hij
  have helem : s.elemIndex h i c + 1 ≤ s.elemIndex h j c := by unfold State.elemIndex; omega
  calc s.sampleAddr h i c + s.elemBytes = (s.elemIndex h i c + 1) * s.elemBytes := by
        rw [State.sampleAddr, Nat.succ_mul]
    _ ≤ s.sampleAddr h j c := Nat.mul_le_mul_right _ helem

/-! ### Storing samples -/

/-- W bits are W/8 bytes (R3). -/
theorem State.two_pow_width (s : State) : 2 ^ s.width = 256 ^ s.elemBytes := by
  unfold State.width State.elemBytes; split <;> rfl

/-- The stored bytes of a value read as its wrap to W bits (R11, R45). -/
theorem State.leNat_sampleBytes (s : State) (v : Int) :
    Int.bmod (leNat (s.sampleBytes v)) (2 ^ s.width) = Int.bmod v (2 ^ s.width) := by
  have hpos : (0 : Int) < 2 ^ s.width := by positivity
  have hcast : ((2 ^ s.width : Nat) : Int) = 2 ^ s.width := by push_cast; rfl
  have hnat : ((leNat (s.sampleBytes v) : Nat) : Int) = v % 2 ^ s.width := by
    rw [State.sampleBytes, leNat_leBytes, ← State.two_pow_width, Nat.mod_eq_of_lt]
    · exact Int.toNat_of_nonneg (Int.emod_nonneg _ (by omega))
    · have := Int.emod_lt_of_pos v hpos
      omega
  rw [hnat, ← hcast, Int.emod_bmod]

/-- A sample reads as what was stored, wrapped to W bits. -/
theorem State.sample?_setSample_same (s : State) (h : Half) (i c : Nat) (v : Int) :
    (s.setSample h i c v).sample? h i c = some (Int.bmod v (2 ^ s.width)) := by
  have hbytes : Memory.readBytes unwritten (s.setSample h i c v).ring (s.sampleAddr h i c) s.elemBytes =
      some (s.sampleBytes v) := by
    refine Memory.readBytes_eq_some.mpr ⟨State.sampleBytes_length s v, fun k hk => ?_⟩
    rw [State.setSample_ring, Memory.read_setRange, if_pos (by rw [State.sampleBytes_length]; omega)]
    congr 1; omega
  have hread : (s.setSample h i c v).sample? h i c =
      match Memory.readBytes unwritten (s.setSample h i c v).ring (s.sampleAddr h i c) s.elemBytes with
      | some bs => some (Int.bmod (leNat bs) (2 ^ s.width))
      | none => none := rfl
  rw [hread, hbytes]
  simp only [State.leNat_sampleBytes]

/-- Storing a sample leaves the other samples of the channel. -/
theorem State.sample?_setSample_other {s : State} {h : Half} {i j c : Nat} (hC : 0 < s.acqC.toNat) (hij : i ≠ j) (v : Int) :
    (s.setSample h i c v).sample? h j c = s.sample? h j c := by
  have hbytes : Memory.readBytes unwritten (s.setSample h i c v).ring (s.sampleAddr h j c) s.elemBytes =
      Memory.readBytes unwritten s.ring (s.sampleAddr h j c) s.elemBytes := by
    refine Option.ext fun bs => ?_
    rw [Memory.readBytes_eq_some, Memory.readBytes_eq_some]
    refine and_congr_right fun _ => forall_congr' fun k => imp_congr_right fun hk => ?_
    rw [State.read_setSample]
    rw [State.sampleBytes_length]
    rcases Nat.lt_or_gt_of_ne hij with hlt | hlt
    · have := State.sampleAddr_disjoint (s := s) h (c := c) hC hlt; omega
    · have := State.sampleAddr_disjoint (s := s) h (c := c) hC hlt; omega
  unfold State.sample?
  rw [show (s.setSample h i c v).sampleAddr h j c = s.sampleAddr h j c from rfl,
    show (s.setSample h i c v).elemBytes = s.elemBytes from rfl,
    show (s.setSample h i c v).width = s.width from rfl, hbytes]

/-- Storing samples leaves every byte outside them. -/
theorem State.read_setSamples_outside {s : State} {h : Half} {c lo a : Nat} {vs : List Int}
    (ha : ∀ i, i < vs.length → ¬(s.sampleAddr h (lo + i) c ≤ a ∧ a < s.sampleAddr h (lo + i) c + s.elemBytes)) :
    Memory.read unwritten (s.setSamples h c lo vs).ring a = Memory.read unwritten s.ring a := by
  induction vs generalizing s lo with
  | nil => rfl
  | cons v vs ih =>
    rw [State.setSamples, ih fun i hi => ?_, State.read_setSample]
    · have := ha 0 (by simp)
      rw [State.sampleBytes_length]
      simp only [Nat.add_zero] at this
      omega
    · have := ha (i + 1) (by simpa using hi)
      rwa [show lo + (i + 1) = lo + 1 + i by omega] at this

/-- Storing samples keeps the ring canonical. -/
theorem State.wf_setSamples {s : State} {h : Half} {c lo : Nat} {vs : List Int} (hr : Memory.wf unwritten s.ring) :
    Memory.wf unwritten (s.setSamples h c lo vs).ring := by
  induction vs generalizing s lo with
  | nil => exact hr
  | cons v vs ih => exact ih (Memory.wf_setRange hr _ _)

/-- Storing samples and changing the draws commute. -/
theorem State.setSamples_withDraws (s : State) (t : List Nat) (n : Nat) (h : Half) (c lo : Nat) (vs : List Int) :
    (s.withDraws t n).setSamples h c lo vs = (s.setSamples h c lo vs).withDraws t n := by
  induction vs generalizing s lo with
  | nil => rfl
  | cons v vs ih => exact ih (s.setSample h lo c v) (lo + 1)

/-- A sample before the stored ones is as it was. -/
theorem State.sample?_setSamples_before {s : State} {h : Half} {c lo i : Nat} {vs : List Int} (hC : 0 < s.acqC.toNat)
    (hi : i < lo) : (s.setSamples h c lo vs).sample? h i c = s.sample? h i c := by
  induction vs generalizing s lo with
  | nil => rfl
  | cons v vs ih =>
    rw [State.setSamples, ih (s := s.setSample h lo c v) hC (by omega), State.sample?_setSample_other hC (by omega)]

/-- Stored samples read as the stored values, wrapped to W bits. -/
theorem State.sample?_setSamples {s : State} {h : Half} {c lo i : Nat} {vs : List Int} (hC : 0 < s.acqC.toNat)
    (hi : i < vs.length) :
    (s.setSamples h c lo vs).sample? h (lo + i) c = some (Int.bmod vs[i] (2 ^ s.width)) := by
  induction vs generalizing s lo i with
  | nil => simp at hi
  | cons v vs ih =>
    rw [State.setSamples]
    cases i with
    | zero =>
      rw [State.sample?_setSamples_before (s := s.setSample h lo c v) hC (by omega)]
      exact State.sample?_setSample_same s h lo c v
    | succ i =>
      have := ih (s := s.setSample h lo c v) (lo := lo + 1) (i := i) hC (by simpa using hi)
      rw [show lo + (i + 1) = lo + 1 + i by omega, this]
      rfl

/-! ### Products with a window -/

/-- A product may take a draw, and changes nothing else (R93). -/
theorem State.hmul_snd (s : State) (x : Int) (k : F32) : ∃ t n, (s.hmul x k).2 = s.withDraws t n := by
  unfold State.hmul
  split
  · split
    · exact ⟨s.drawTape, s.drawCount, rfl⟩
    · exact s.draw_eq
  · exact s.draw_eq

/-- The products of a channel take draws, and change nothing else. -/
theorem State.hmulAll_snd (s : State) (xs : List Int) (ks : List F32) :
    ∃ t n, (s.hmulAll xs ks).2 = s.withDraws t n := by
  induction xs generalizing s ks with
  | nil => exact ⟨s.drawTape, s.drawCount, by cases ks <;> rfl⟩
  | cons x xs ih =>
    cases ks with
    | nil => exact ⟨s.drawTape, s.drawCount, rfl⟩
    | cons k ks =>
      obtain ⟨t, n, h⟩ := s.hmul_snd x k
      obtain ⟨t', n', h'⟩ := ih (s.hmul x k).2 ks
      exact ⟨t', n', by rw [State.hmulAll, h', h]; rfl⟩

theorem State.hmulAll_length (s : State) (xs : List Int) (ks : List F32) :
    (s.hmulAll xs ks).1.length = min xs.length ks.length := by
  induction xs generalizing s ks with
  | nil => cases ks <;> simp [State.hmulAll]
  | cons x xs ih => cases ks <;> simp [State.hmulAll, ih]

end Sys2Proof.Machine
end


section
/-! The effect of each command: every meaning keeps to `CommandEffect`, and a command with an unwritten operand does nothing
but fault. -/

namespace Sys2Proof.Machine

-- Many short elaborations at once would start a thread each.
set_option Elab.async false

/-! ### What the units keep (R33, R35, R36) -/

theorem Goertzel.inRange_iff {g : Goertzel} (hn : g.n ≠ 0) : g.InRange ↔ g.cnt.toNat < g.n.toNat := by
  rw [Goertzel.InRange, if_neg hn]

@[simp] theorem Goertzel.sample_n (g : Goertzel) (x : Int) : (g.sample x).1.n = g.n := by
  simp only [Goertzel.sample]; split <;> rfl

/-- A count below the block length does not overflow when it is counted on. -/
theorem Goertzel.cnt_succ_toNat {g : Goertzel} (h : g.cnt.toNat < g.n.toNat) : (g.cnt + 1).toNat = g.cnt.toNat + 1 := by
  have := g.n.isLt
  rw [BitVec.toNat_add]
  exact Nat.mod_eq_of_lt (by change g.cnt.toNat + 1 < _; omega)

/-- A sample counts on, and a full block counts from 0 again (R111). -/
theorem Goertzel.sample_cnt {g : Goertzel} (h : g.cnt.toNat < g.n.toNat) (x : Int) :
    (g.sample x).1.cnt.toNat = (if g.cnt.toNat + 1 = g.n.toNat then 0 else g.cnt.toNat + 1) ∧
      ((g.sample x).2 = true ↔ g.cnt.toNat + 1 = g.n.toNat) := by
  have hsucc := Goertzel.cnt_succ_toNat h
  have hfull : (g.recur x).cnt = (g.recur x).n ↔ g.cnt.toNat + 1 = g.n.toNat := by
    rw [← hsucc]; exact BitVec.toNat_inj.symm
  unfold Goertzel.sample
  by_cases hf : g.cnt.toNat + 1 = g.n.toNat
  · simp [hfull.mpr hf, hf]
  · simp only [hfull, hf, if_false]
    exact ⟨hsucc, by simp⟩

theorem Goertzel.sample_cnt_lt {g : Goertzel} (h : g.cnt.toNat < g.n.toNat) (x : Int) :
    (g.sample x).1.cnt.toNat < (g.sample x).1.n.toNat := by
  rw [Goertzel.sample_n, (Goertzel.sample_cnt h x).1]
  split <;> omega

@[simp] theorem Goertzel.feed_n (g : Goertzel) (xs : List Int) : (g.feed xs).1.n = g.n := by
  induction xs generalizing g with
  | nil => rfl
  | cons x xs ih => rw [Goertzel.feed, ih, Goertzel.sample_n]

/-- Feeding keeps the counter below the block length (R33, R111). -/
theorem Goertzel.feed_cnt_lt {g : Goertzel} (h : g.cnt.toNat < g.n.toNat) (xs : List Int) :
    (g.feed xs).1.cnt.toNat < (g.feed xs).1.n.toNat := by
  induction xs generalizing g with
  | nil => exact h
  | cons x xs ih => exact ih (Goertzel.sample_cnt_lt h x)

/-- A buffer made by an init is in form (R122, R128). -/
theorem CircBuf.init_ok {b : CircBuf} {cap len : Nat} (hb : b.Ok cap) (h1 : 1 ≤ len) (hcap : len ≤ cap) :
    (b.init len).Ok cap := by
  refine ⟨?_, hcap, .inr h1⟩
  rw [CircBuf.init, List.length_append, List.length_replicate, List.length_drop, hb.1]
  omega

/-- A push keeps a buffer in form (R123). -/
theorem CircBuf.push_ok {b : CircBuf} {cap : Nat} (hb : b.Ok cap) (hlen : b.len ≠ 0) (x : F32) : (b.push x).Ok cap :=
  ⟨by rw [CircBuf.push, List.length_set, hb.1], hb.2.1, .inr (Nat.mod_lt _ (by omega))⟩

/-! ### Lengths of what commands read -/

@[simp] theorem State.nvBytes_length (s : State) (a n : Nat) : (s.nvBytes a n).length = n := by
  induction n generalizing a with
  | zero => rfl
  | succ n ih => rw [State.nvBytes, List.length_cons, ih]

theorem State.length_of_xbufBytes? {s : State} {off n : Nat} {bs : List Byte} (h : s.xbufBytes? off n = some bs) :
    bs.length = n := (Memory.readBytes_eq_some.mp h).1

theorem f32Bytes_length (ks : List F32) : (f32Bytes ks).length = 4 * ks.length := by
  induction ks with
  | nil => rfl
  | cons k ks ih =>
    rw [f32Bytes, List.flatMap_cons, List.length_append, leBytes_length, ← f32Bytes, ih, List.length_cons]; omega

theorem int16Bytes_length (xs : List (BitVec 16)) : (int16Bytes xs).length = 2 * xs.length := by
  induction xs with
  | nil => rfl
  | cons x xs ih =>
    rw [int16Bytes, List.flatMap_cons, List.length_append, leBytes_length, ← int16Bytes, ih, List.length_cons]; omega

theorem fftFn_length (n : Nat) (input : List (BitVec 16)) : (fftFn n input).length = 2 * n := by
  simp [fftFn]

/-! ### Common forms -/

section forms

variable {i : Instr} {s : State}

/-- A command that ends with a 64-bit value in a state that differs by draws. -/
theorem completes_finish64_draws {u : State} {r : BitVec 64} (hu : ∃ t n, u = s.withDraws t n)
    (h0 : (0 : Fin 4) ∈ i.resWritten := by simp [Instr.resWritten]) (h1 : (1 : Fin 4) ∈ i.resWritten := by simp [Instr.resWritten])
    (hcode : .ok ∈ i.codes := by simp [Instr.codes]) : Completes s.cmd (CommandEffect i s) (u.finish64 r) := by
  obtain ⟨t, n, rfl⟩ := hu
  exact CommandEffect.intro (t := { (s.withDraws t n).setRes64 r with rc := .ok }) (.same i) rfl
    (.set (.set (.refl _) 0 _ h0) 1 _ h1) hcode

/-- A command made of one micro-step: its change, and draws. -/
theorem completes_finishStep {u : State} {r : State × Bool} (hcore : CommandCore s i u)
    (hr : ∃ t n, r.1 = u.withDraws t n) (hres : u.res = s.res := by rfl) (hok : .ok ∈ i.codes := by simp [Instr.codes])
    (hfail : .writeFail ∈ i.codes := by simp [Instr.codes]) : Completes s.cmd (CommandEffect i s) (finishStep r) := by
  obtain ⟨t, n, hr⟩ := hr
  rw [finishStep_eq, hr]
  refine CommandEffect.intro (t := { u.withDraws t n with rc := if r.2 then .ok else .writeFail }) hcore rfl ?_ ?_
  · change ResFrame _ _ u.res
    rw [hres]; exact .refl _
  · cases r.2
    · exact hfail
    · exact hok

theorem State.rmsOf_snd (s : State) (xs : List Int) : ∃ t n, (s.rmsOf xs).2 = s.withDraws t n := by
  unfold State.rmsOf
  split
  · exact ⟨s.drawTape, s.drawCount, rfl⟩
  · exact s.draw_eq

/-- Storing at most S samples of a channel changes no byte outside it (R45, R86, R87, R95, R96). -/
theorem CommandCore.setSamples {h : HalfSel} {c : Chan} {hf : Half} {vs : List Int} (hi : Instr.Mutates i h c)
    (hhalf : s.resolveHalf h = some hf) (hvs : vs.length ≤ s.acqS.toNat) :
    CommandCore s i (s.setSamples hf c.toNat 0 vs) := by
  have hwf := State.wf_setSamples (s := s) (h := hf) (c := c.toNat) (lo := 0) (vs := vs)
  have hout : ∀ a, ¬s.InChannel hf c a →
      Memory.read unwritten (s.setSamples hf c.toNat 0 vs).ring a = Memory.read unwritten s.ring a := fun a ha =>
    State.read_setSamples_outside fun k hk hin => ha ⟨k, by omega, by simpa using hin⟩
  obtain ⟨r, hr⟩ := s.setSamples_eq hf c.toNat 0 vs
  rw [hr] at hwf hout ⊢
  exact .channel hi hhalf hwf hout

end forms

/-! ### Acquisition -/

section acquisition

variable {s : State} {h : HalfSel} {c : Chan}

theorem execAcqInit_completes (hi : Instr.ArgsWritten .acqInit s) :
    Completes s.cmd (CommandEffect .acqInit s) (execAcqInit s) := by
  have hread := fun n hn => State.hasArg_value (hi n hn)
  rw [execAcqInit_of_hasArg (hread 0 (by decide)) (hread 1 (by decide)) (hread 2 (by decide))]
  exact .ite (fun _ => completes_finish (.same _)) fun hrej => CommandEffect.intro (.acqStart hrej) rfl (.refl _) (by simp [Instr.codes, State.acqStart])

theorem execAcqLoop_completes : Completes s.cmd (CommandEffect .acqLoop s) (execAcqLoop s) :=
  .ite (fun _ => CommandEffect.intro .deliver rfl (.set (.set (.set (.set (.refl _) 0 _) 1 _) 2 _) 3 _))
    fun _ => completes_finish32 (.same _)

theorem execAcqMean_completes : Completes s.cmd (CommandEffect (.acqMean h c) s) (execAcqMean h c s) :=
  .accessor (completes_finish64 (.same _)) fun _ _ => .withData fun _ _ => completes_finish64 (.same _)

theorem execAcqMeanLim_completes (hi : Instr.ArgsWritten (.acqMeanLim h c) s) :
    Completes s.cmd (CommandEffect (.acqMeanLim h c) s) (execAcqMeanLim h c s) :=
  .withArg 0 hi fun _ _ => .withArg 1 hi fun _ _ => .accessor (completes_finish64 (.same _)) fun _ _ =>
    .ite (fun _ => completes_finish64 (.same _)) fun _ => .withData fun _ _ => completes_finish64 (.same _)

theorem execAcqMeanShift_completes (hi : Instr.ArgsWritten (.acqMeanShift h c) s) :
    Completes s.cmd (CommandEffect (.acqMeanShift h c) s) (execAcqMeanShift h c s) :=
  .withArg 0 hi fun _ _ => .accessor (completes_finish64 (.same _)) fun _ _ =>
    .withData fun _ _ => completes_finish64 (.same _)

theorem execAcqAbsMean_completes : Completes s.cmd (CommandEffect (.acqAbsMean h c) s) (execAcqAbsMean h c s) :=
  .accessor (completes_finish64 (.same _)) fun _ _ => .withData fun _ _ => completes_finish64 (.same _)

theorem execAcqRms_completes : Completes s.cmd (CommandEffect (.acqRms h c) s) (execAcqRms h c s) :=
  .accessor (completes_finish64 (.same _)) fun _ _ => .withData fun _ _ => completes_finish64_draws (s.rmsOf_snd _)

theorem execAcqTrueRms_completes (hi : Instr.ArgsWritten (.acqTrueRms h c) s) :
    Completes s.cmd (CommandEffect (.acqTrueRms h c) s) (execAcqTrueRms h c s) :=
  .withArg 0 hi fun _ _ => .withArg 1 hi fun _ _ => .accessor (completes_finish64 (.same _)) fun _ _ =>
    .ite (fun _ => completes_finish64 (.same _)) fun _ =>
      .withData fun _ _ => completes_finish64_draws (s.rmsOf_snd _)

theorem execAcqMax_completes : Completes s.cmd (CommandEffect (.acqMax h c) s) (execAcqMax h c s) :=
  .accessor (completes_finish32 (.same _)) fun _ _ => .withData fun _ _ => completes_finish32 (.same _)

theorem execAcqMin_completes : Completes s.cmd (CommandEffect (.acqMin h c) s) (execAcqMin h c s) :=
  .accessor (completes_finish32 (.same _)) fun _ _ => .withData fun _ _ => completes_finish32 (.same _)

theorem execAcqSetOffset_completes (hi : Instr.ArgsWritten (.acqSetOffset h c) s) :
    Completes s.cmd (CommandEffect (.acqSetOffset h c) s) (execAcqSetOffset h c s) :=
  .withArg 0 hi fun _ _ => .accessor (completes_finish (.same _)) fun _ hhalf => .withData fun _ hxs =>
    completes_finish (.setSamples (.inl rfl) hhalf (by rw [List.length_map, State.length_of_samples? hxs]))
      (State.setSamples_res ..)

theorem cmaSeq_length (k : Nat) (cma : Int) (xs : List Int) : (cmaSeq k cma xs).length = xs.length := by
  induction xs generalizing cma with
  | nil => rfl
  | cons x xs ih => simp [cmaSeq, ih]

theorem execAcqCma_completes (hi : Instr.ArgsWritten (.acqCma h c) s) :
    Completes s.cmd (CommandEffect (.acqCma h c) s) (execAcqCma h c s) :=
  .withArg 0 hi fun _ _ => .withArg 1 hi fun _ _ => .accessor (completes_finish32 (.same _)) fun _ hhalf =>
    .withData fun _ hxs =>
      completes_finish32 (.setSamples (.inr (.inl rfl)) hhalf (by rw [cmaSeq_length, State.length_of_samples? hxs]))
        (State.setSamples_res ..)

theorem execAcqPeakFwd_completes : Completes s.cmd (CommandEffect (.acqPeakFwd h c) s) (execAcqPeakFwd h c s) :=
  .accessor (completes_finish32 (.same _)) fun _ _ => .withData fun _ _ => completes_finish32 (.same _)

theorem execAcqPeakRev_completes : Completes s.cmd (CommandEffect (.acqPeakRev h c) s) (execAcqPeakRev h c s) :=
  .accessor (completes_finish32 (.same _)) fun _ _ => .withData fun _ _ => completes_finish32 (.same _)

theorem execAcqSineWin_completes : Completes s.cmd (CommandEffect (.acqSineWin h c) s) (execAcqSineWin h c s) :=
  .accessor (completes_finish_two (.same _)) fun _ _ =>
    .withData fun _ _ => .withData fun _ _ => completes_finish_two (.same _)

end acquisition

/-! ### Hanning window -/

section hanning

variable {s : State} {h : HalfSel} {c : Chan}

theorem execHannInit_completes (hi : Instr.ArgsWritten .hannInit s) :
    Completes s.cmd (CommandEffect .hannInit s) (execHannInit s) :=
  .withArg 0 hi fun _ hlen => .ite (fun _ => completes_finish (.same _)) fun hmax =>
    completes_finish (.hannTable hlen (by simp only [u32] at hmax; omega)
      (by rw [f32Bytes_length, List.length_map, List.length_range, u32]))

/-- Multiplying a channel by a window is storing at most S samples of it, and draws. -/
theorem windowChannel_completes {i : Instr} {hf : Half} {ks : List F32} (hi : Instr.Mutates i h c)
    (hhalf : s.resolveHalf h = some hf) (hcode : .ok ∈ i.codes := by simp [Instr.codes]) :
    Completes s.cmd (CommandEffect i s) (s.windowChannel hf c.toNat ks) := by
  refine .withData fun xs hxs => ?_
  have hlen : (s.hmulAll xs ks).1.length ≤ s.acqS.toNat := by
    rw [State.hmulAll_length, State.length_of_samples? hxs]; exact Nat.min_le_left _ _
  obtain ⟨t, n, hdraws⟩ := s.hmulAll_snd xs ks
  rw [hdraws, State.setSamples_withDraws]
  exact CommandEffect.intro (t := { (s.setSamples hf c.toNat 0 _).withDraws t n with rc := .ok })
    (.setSamples hi hhalf hlen) rfl
    (by rw [State.withDraws_res, State.setSamples_res]; exact .refl _) hcode

theorem State.resolveHalf_of_channelHalf {hf : Half} (hch : s.channelHalf h c = some hf) : s.resolveHalf h = some hf :=
  (State.channelHalf_eq_some.mp hch).2

theorem execHannApply_completes : Completes s.cmd (CommandEffect (.hannApply h c) s) (execHannApply h c s) := by
  unfold execHannApply
  refine .ite (fun _ => completes_finish (.same _)) fun _ => ?_
  cases hch : s.channelHalf h c with
  | none => exact completes_finish (.same _)
  | some hf =>
    exact .ite (fun _ => completes_finish (.same _)) fun _ => .withData fun _ _ =>
      windowChannel_completes (.inr (.inr (.inl rfl))) (State.resolveHalf_of_channelHalf hch)

theorem execHannDirect_completes : Completes s.cmd (CommandEffect (.hannDirect h c) s) (execHannDirect h c s) := by
  unfold execHannDirect
  cases hch : s.channelHalf h c with
  | none => exact completes_finish (.same _)
  | some hf => exact windowChannel_completes (.inr (.inr (.inr rfl))) (State.resolveHalf_of_channelHalf hch)

end hanning

/-! ### Filters -/

section filters

variable {s : State} {j : Slot}

/-- A design init fills its slot. -/
theorem biquadInit_completes {i : Instr} {shape : BiquadDesign → Biquad} (hi : Instr.ArgsWritten i s)
    (h0 : 0 ∈ i.argsRead := by simp [Instr.argsRead]) (h1 : 1 ∈ i.argsRead := by simp [Instr.argsRead]) (h2 : 2 ∈ i.argsRead := by simp [Instr.argsRead])
    (hcode : .ok ∈ i.codes := by simp [Instr.codes]) : Completes s.cmd (CommandEffect i s) (s.biquadInit j shape) :=
  .withArg 0 hi (hn := h0) fun _ _ => .withArg 1 hi (hn := h1) fun _ _ => .withArg 2 hi (hn := h2) fun _ _ =>
    completes_finish (.biquad j _) rfl hcode

theorem execBqLoad_completes (hi : Instr.ArgsWritten (.bqLoad j) s) :
    Completes s.cmd (CommandEffect (.bqLoad j) s) (execBqLoad j s) :=
  .withArg 0 hi fun _ _ => .withArg 1 hi fun _ _ => .withArg 2 hi fun _ _ => .withArg 3 hi fun _ _ =>
    .withArg 4 hi fun _ _ => completes_finish (.biquad j _)

theorem execBqStep_completes (hi : Instr.ArgsWritten (.bqStep j) s) :
    Completes s.cmd (CommandEffect (.bqStep j) s) (execBqStep j s) :=
  .withArg 0 hi fun _ _ => .ite (fun _ => completes_finish32 (.biquad j _)) fun _ => completes_finish (.same _)

theorem execEmaInitFc_completes (hi : Instr.ArgsWritten (.emaInitFc j) s) :
    Completes s.cmd (CommandEffect (.emaInitFc j) s) (execEmaInitFc j s) :=
  .withArg 0 hi fun _ _ => .withArg 1 hi fun _ _ => completes_finish (.ema j _)

theorem execEmaInitAlpha_completes (hi : Instr.ArgsWritten (.emaInitAlpha j) s) :
    Completes s.cmd (CommandEffect (.emaInitAlpha j) s) (execEmaInitAlpha j s) :=
  .withArg 0 hi fun _ _ => completes_finish (.ema j _)

theorem execEmaStep_completes (hi : Instr.ArgsWritten (.emaStep j) s) :
    Completes s.cmd (CommandEffect (.emaStep j) s) (execEmaStep j s) :=
  .withArg 0 hi fun _ _ => .ite (fun _ => completes_finish32 (.ema j _)) fun _ => completes_finish (.same _)

theorem execNotchInit_completes (hi : Instr.ArgsWritten (.notchInit j) s) :
    Completes s.cmd (CommandEffect (.notchInit j) s) (execNotchInit j s) :=
  .withArg 0 hi fun _ _ => .withArg 1 hi fun _ _ => .withArg 2 hi fun _ _ => completes_finish (.notch j _)

theorem execNotchStep_completes (hi : Instr.ArgsWritten (.notchStep j) s) :
    Completes s.cmd (CommandEffect (.notchStep j) s) (execNotchStep j s) :=
  .withArg 0 hi fun _ _ => .ite (fun _ => completes_finish32 (.notch j _)) fun _ => completes_finish (.same _)

end filters

/-! ### Circular buffers and moving averages -/

section buffers

variable {s : State} {j : Slot}

theorem execCbInit_completes (hi : Instr.ArgsWritten (.cbInit j) s) :
    Completes s.cmd (CommandEffect (.cbInit j) s) (execCbInit j s) :=
  .withArg 0 hi fun _ _ => .ite (fun _ => completes_finish (.same _)) fun hlen =>
    completes_finish (.circBuf fun hb => CircBuf.init_ok hb (by omega) (by omega))

theorem execCbPush_completes (hi : Instr.ArgsWritten (.cbPush j) s) :
    Completes s.cmd (CommandEffect (.cbPush j) s) (execCbPush j s) :=
  .withArg 0 hi fun _ _ => .ite (fun _ => completes_finish (.same _)) fun hlen =>
    completes_finish (.circBuf fun hb => CircBuf.push_ok hb hlen _)

theorem execCbGet_completes (hi : Instr.ArgsWritten (.cbGet j) s) :
    Completes s.cmd (CommandEffect (.cbGet j) s) (execCbGet j s) :=
  .withArg 0 hi fun _ _ => .ite (fun _ => completes_finish (.same _)) fun _ =>
    .ite (fun _ => completes_finish (.same _)) fun _ => completes_finish32 (.same _)

/-- A query of a slot changes no slot. -/
theorem cbQuery_completes {i : Instr} {value : CircBuf → Nat → F32} (hi : Instr.ArgsWritten i s)
    (h0 : 0 ∈ i.argsRead := by simp [Instr.argsRead]) (hres : 0 ∈ i.resWritten := by simp [Instr.resWritten]) (hok : .ok ∈ i.codes := by simp [Instr.codes])
    (harg : .arg ∈ i.codes := by simp [Instr.codes]) (hnot : .notInit ∈ i.codes := by simp [Instr.codes]) :
    Completes s.cmd (CommandEffect i s) (s.cbQuery j value) :=
  .withArg 0 hi (hn := h0) fun _ _ => .ite (fun _ => completes_finish (.same _) rfl hnot) fun _ =>
    .ite (fun _ => completes_finish (.same _) rfl harg) fun _ => completes_finish32 (.same _) rfl hres hok

theorem execMaInit_completes (hi : Instr.ArgsWritten (.maInit j) s) :
    Completes s.cmd (CommandEffect (.maInit j) s) (execMaInit j s) :=
  .withArg 0 hi fun _ _ => .ite (fun _ => completes_finish (.same _)) fun hlen =>
    completes_finish (.movAvg fun hm => ⟨CircBuf.init_ok hm.1 (by omega) (by omega), by
      show u32 _ ≠ 1
      omega⟩)

/-- A moving-average step pushes into its slot. -/
theorem maStep_completes {i : Instr} {value : MovAvg → F32} (hi : Instr.ArgsWritten i s)
    (h0 : 0 ∈ i.argsRead := by simp [Instr.argsRead]) (hres : 0 ∈ i.resWritten := by simp [Instr.resWritten]) (hok : .ok ∈ i.codes := by simp [Instr.codes])
    (hnot : .notInit ∈ i.codes := by simp [Instr.codes]) :
    Completes s.cmd (CommandEffect i s) (s.maStep j value) :=
  .withArg 0 hi (hn := h0) fun _ _ => .ite (fun _ => completes_finish (.same _) rfl hnot) fun hlen =>
    completes_finish32 (.movAvg fun hm => ⟨CircBuf.push_ok hm.1 hlen _, hm.2⟩) rfl hres hok

end buffers

/-! ### Goertzel and FFT -/

section spectrum

variable {s : State} {h : HalfSel} {c : Chan}

theorem execGzInit_completes (hi : Instr.ArgsWritten .gzInit s) :
    Completes s.cmd (CommandEffect .gzInit s) (execGzInit s) := by
  refine .withArg 0 hi fun _ _ => .withArg 1 hi fun _ _ => .withArg 2 hi fun _ _ => .withArg 3 hi fun hz _ =>
    .withArg 4 hi fun fs _ => .withArg 5 hi fun n _ => .withArg 6 hi fun _ _ => ?_
  refine .ite (fun _ => completes_finish (.same _)) fun hn => ?_
  cases goertzelBin (goertzelKr (u32 n) (f64 hz) (f64 fs)) with
  | none => exact completes_finish (.same _)
  | some k =>
    have hn0 : n ≠ 0 := fun h0 => hn (by rw [h0]; rfl)
    exact completes_finish (.goertzel fun _ => (Goertzel.inRange_iff hn0).mpr (Nat.pos_of_ne_zero hn))

theorem execGzFeed_completes (hi : Instr.ArgsWritten (.gzFeed h c) s) :
    Completes s.cmd (CommandEffect (.gzFeed h c) s) (execGzFeed h c s) := by
  refine .withArg 0 hi fun m _ => .ite (fun _ => completes_finish (.same _)) fun hn => ?_
  cases s.channelHalf h c with
  | none => exact completes_finish (.same _)
  | some hf =>
    refine .ite (fun _ => completes_finish (.same _)) fun _ => .withData fun xs _ => ?_
    have hcore : CommandCore s (.gzFeed h c) { s with gz := (s.gz.feed xs).1 } := .goertzel fun hr =>
      (Goertzel.inRange_iff (by rwa [Goertzel.feed_n])).mpr (Goertzel.feed_cnt_lt ((Goertzel.inRange_iff hn).mp hr) xs)
    exact .ite (fun _ => completes_finish_two hcore) fun _ => completes_finish32 hcore

theorem execFftInit_completes (hi : Instr.ArgsWritten .fftInit s) :
    Completes s.cmd (CommandEffect .fftInit s) (execFftInit s) :=
  .withArg 0 hi fun _ harg => .ite (fun hmem => completes_finish (.fftClear harg hmem)) fun _ =>
    completes_finish (.same _)

theorem execFftRun_completes : Completes s.cmd (CommandEffect (.fftRun h c) s) (execFftRun h c s) := by
  unfold execFftRun
  refine .ite (fun _ => completes_finish (.same _)) fun _ => ?_
  cases s.channelHalf h c with
  | none => exact completes_finish (.same _)
  | some hf =>
    exact .ite (fun _ => completes_finish (.same _)) fun _ => .withData fun xs _ =>
      completes_finish32 (.fftTable (by rw [int16Bytes_length, fftFn_length]; omega))

theorem execFftAbsMax_completes {f0 : Bool} (hi : Instr.ArgsWritten (.fftAbsMax f0) s) :
    Completes s.cmd (CommandEffect (.fftAbsMax f0) s) (execFftAbsMax f0 s) :=
  .withArg 0 hi fun _ _ => .ite (fun _ => completes_finish (.same _)) fun _ =>
    .ite (fun _ => completes_finish (.same _)) fun _ => .withData fun _ _ => completes_finish_two (.same _)

/-- A CRC command changes nothing but its result. -/
theorem crcCommand_completes {i : Instr} {lenOk : Nat → Bool} {value : List Byte → Word} (hi : Instr.ArgsWritten i s)
    (h0 : 0 ∈ i.argsRead := by simp [Instr.argsRead]) (h1 : 1 ∈ i.argsRead := by simp [Instr.argsRead]) (hres : 0 ∈ i.resWritten := by simp [Instr.resWritten])
    (hok : .ok ∈ i.codes := by simp [Instr.codes]) (harg : .arg ∈ i.codes := by simp [Instr.codes]) :
    Completes s.cmd (CommandEffect i s) (s.crcCommand lenOk value) :=
  .withArg 0 hi (hn := h0) fun _ _ => .withArg 1 hi (hn := h1) fun _ _ =>
    .ite (fun _ => completes_finish (.same _) rfl harg) fun _ =>
      .ite (fun _ => completes_finish (.same _) rfl harg) fun _ =>
        .withData fun _ _ => completes_finish32 (.same _) rfl hres hok

end spectrum

/-! ### Non-volatile sectors -/

section nonvolatile

variable {s : State} {f0 : Bool}

/-- A refused micro-step changes nothing. -/
theorem completes_finishStep_refused {i : Instr} (hok : .ok ∈ i.codes := by simp [Instr.codes])
    (hfail : .writeFail ∈ i.codes := by simp [Instr.codes]) : Completes s.cmd (CommandEffect i s) (finishStep (s, false)) :=
  completes_finishStep (.same i) ⟨s.drawTape, s.drawCount, rfl⟩ rfl hok hfail

theorem execNvWpSet_completes (hi : Instr.ArgsWritten (.nvWpSet f0) s) :
    Completes s.cmd (CommandEffect (.nvWpSet f0) s) (execNvWpSet f0 s) := by
  refine .withArg 0 hi fun k _ => .ite (fun _ => completes_finish (.same _)) fun hk => ?_
  rcases s.optWriteStep_cases (u32 k) f0 with ⟨-, heq⟩ | ⟨-, t, n, b, ok, -, heq⟩ <;> rw [heq]
  · exact completes_finishStep_refused
  · exact completes_finishStep (.optBit (k := u32 k) (b := b) (by omega)) ⟨t, n, rfl⟩

theorem execNvObLaunch_completes : Completes s.cmd (CommandEffect .nvObLaunch s) (execNvObLaunch s) := by
  unfold execNvObLaunch
  rcases s.optLaunchStep_cases with ⟨-, heq⟩ | ⟨-, t, n, ok, heq⟩ <;> rw [heq]
  · exact completes_finishStep_refused
  · cases ok
    · exact completes_finishStep (.same _) ⟨t, n, rfl⟩
    · exact completes_finishStep .launch ⟨t, n, rfl⟩

theorem execNvErase_completes (hi : Instr.ArgsWritten .nvErase s) :
    Completes s.cmd (CommandEffect .nvErase s) (execNvErase s) := by
  refine .withArg 0 hi fun k harg => .ite (fun _ => completes_finish (.same _)) fun hk => ?_
  rcases s.nvEraseStep_cases (u32 k) with ⟨-, heq⟩ | ⟨-, hwp, t, n, bs, ok, hbs, -, heq⟩ <;> rw [heq]
  · exact completes_finishStep_refused
  · exact completes_finishStep (.erase harg (by simp only [u32] at hk; omega) hwp hbs) ⟨t, n, rfl⟩

/-- The common form of the program commands: the bytes lie in NV, and those of a word at an aligned address. -/
theorem nvProgramStep_completes {i : Instr} {a : Word} {v : List Byte} (harg : s.HasArg 0 a)
    (hi : (i = .nvProgByte ∧ v.length = 1) ∨ (i = .nvProgWord ∧ v.length = 4 ∧ a.toNat % 4 = 0))
    (hin : a.toNat + v.length ≤ s.cfg.nvBytes) (hok : .ok ∈ i.codes := by simp [Instr.codes])
    (hfail : .writeFail ∈ i.codes := by simp [Instr.codes]) :
    Completes s.cmd (CommandEffect i s) (finishStep (s.nvProgramStep a.toNat v)) := by
  rcases s.nvProgramStep_cases a.toNat v with ⟨-, heq⟩ | ⟨-, hwp, t, n, bs, ok, hbs, -, heq⟩ <;> rw [heq]
  · exact completes_finishStep_refused hok hfail
  · rw [← hbs] at hi hin ⊢
    exact completes_finishStep (.program harg hi hwp hin) ⟨t, n, rfl⟩ rfl hok hfail

theorem execNvProgByte_completes (hi : Instr.ArgsWritten .nvProgByte s) :
    Completes s.cmd (CommandEffect .nvProgByte s) (execNvProgByte s) :=
  .withArg 0 hi fun _ harg => .withArg 1 hi fun _ _ => .ite (fun _ => completes_finish (.same _)) fun hin =>
    nvProgramStep_completes harg (.inl ⟨rfl, rfl⟩) (by simp only [u32, List.length_singleton] at hin ⊢; omega)

theorem execNvProgWord_completes (hi : Instr.ArgsWritten .nvProgWord s) :
    Completes s.cmd (CommandEffect .nvProgWord s) (execNvProgWord s) :=
  .withArg 0 hi fun _ harg => .withArg 1 hi fun _ _ => .ite (fun _ => completes_finish (.same _)) fun hin =>
    nvProgramStep_completes harg (.inr ⟨rfl, leBytes_length _ _, by simp only [u32] at hin; omega⟩)
      (by simp only [u32, leBytes_length] at hin ⊢; omega)

theorem execNvReadByte_completes (hi : Instr.ArgsWritten .nvReadByte s) :
    Completes s.cmd (CommandEffect .nvReadByte s) (execNvReadByte s) :=
  .withArg 0 hi fun _ _ => .ite (fun _ => completes_finish (.same _)) fun _ => completes_finish32 (.same _)

theorem execNvRead_completes (hi : Instr.ArgsWritten (.nvRead f0) s) :
    Completes s.cmd (CommandEffect (.nvRead f0) s) (execNvRead f0 s) := by
  have harg : .arg ∈ (Instr.nvRead f0).codes := by cases f0 <;> decide
  refine .withArg 0 hi fun a _ => .withArg 1 hi fun n hn => .withArg 2 hi fun xo hxo =>
    .ite (fun _ => completes_finish (.same _) rfl harg) fun _ => ?_
  have hcore : CommandCore s (.nvRead f0) (s.setXbuf xo.toNat (s.nvBytes (u32 a) (u32 n))) :=
    .nvRead hn hxo (State.nvBytes_length ..)
  cases f0 with
  | false => exact completes_finish hcore
  | true =>
    refine completes_finish_two hcore rfl (by decide) (by decide) ?_
    split <;> decide

theorem execOtpRead_completes : Completes s.cmd (CommandEffect .otpRead s) (execOtpRead s) := by
  unfold execOtpRead
  split
  · exact CommandEffect.intro (.otpRead (State.nvBytes_length ..)) rfl (.refl _)
  · exact CommandEffect.intro (.same _) rfl (.refl _)

/-- What micro-step 0 of `NV_WRITE` leaves: `RC` is written when the composite ends (R152; log 26). -/
theorem CommandEffect.nvWriteBegin {a n xo : Word} {p : List Byte} {res : Vector MarkedReg 4}
    (hfits : (Composite.nvWrite f0 a n xo p).fits s.cfg = true) (hres : ResFrame (Instr.nvWrite f0).resWritten s.res res) :
    CommandEffect (.nvWrite f0) s { s.nvWriteBegin f0 a n xo p with res := res } :=
  ⟨_, res, s.rc, s.drawTape, s.drawCount, .nvWrite hfits, hres, .inr ⟨rfl, rfl, .inr ⟨f0, rfl⟩⟩, rfl⟩

theorem execNvWrite_completes (hi : Instr.ArgsWritten (.nvWrite f0) s) :
    Completes s.cmd (CommandEffect (.nvWrite f0) s) (execNvWrite f0 s) := by
  refine .withArg 0 hi fun a _ => .withArg 1 hi fun n _ => .withArg 2 hi fun xo _ =>
    .ite (fun _ => completes_finish (.same _)) fun _ => .ite (fun _ => completes_finish (.same _)) fun hfit =>
      .withData fun p hp => ?_
  have hlen : p.length = u32 n := State.length_of_xbufBytes? hp
  have hfits : ∀ q : List Byte, q.length = u32 n + crcLen f0 → (Composite.nvWrite f0 a n xo q).fits s.cfg = true := by
    intro q hq
    rw [not_or] at hfit
    exact decide_eq_true ⟨Nat.lt_of_not_le hfit.1, by rw [hq]; exact Nat.le_of_not_lt hfit.2⟩
  cases f0 with
  | false => exact CommandEffect.nvWriteBegin (hfits p hlen) (.refl _)
  | true => exact CommandEffect.nvWriteBegin (hfits _ (by rw [List.length_append, hlen, leBytes_length]; rfl)) (.set (.refl _) 0 _)

theorem execOtpWrite_completes : Completes s.cmd (CommandEffect .otpWrite s) (execOtpWrite s) := by
  unfold execOtpWrite
  refine .withData fun r hr => .ite (fun _ => completes_finish (.same _)) fun _ => ?_
  exact ⟨_, s.res, s.rc, s.drawTape, s.drawCount, .otpWrite (State.length_of_xbufBytes? hr), .refl _,
    .inr ⟨rfl, rfl, .inl rfl⟩, rfl⟩

end nonvolatile

/-! ### Every command -/

/-- With its operands written a command has its effect, or faults for unwritten data. -/
theorem exec_completes {i : Instr} {s : State} (hi : Instr.ArgsWritten i s) :
    Completes s.cmd (CommandEffect i s) (exec i s) := by
  cases i with
  | acqInit => exact execAcqInit_completes hi
  | acqLoop => exact execAcqLoop_completes
  | acqMean h c => exact execAcqMean_completes
  | acqMeanLim h c => exact execAcqMeanLim_completes hi
  | acqMeanShift h c => exact execAcqMeanShift_completes hi
  | acqAbsMean h c => exact execAcqAbsMean_completes
  | acqRms h c => exact execAcqRms_completes
  | acqTrueRms h c => exact execAcqTrueRms_completes hi
  | acqMax h c => exact execAcqMax_completes
  | acqMin h c => exact execAcqMin_completes
  | acqSetOffset h c => exact execAcqSetOffset_completes hi
  | acqCma h c => exact execAcqCma_completes hi
  | acqPeakFwd h c => exact execAcqPeakFwd_completes
  | acqPeakRev h c => exact execAcqPeakRev_completes
  | acqSineWin h c => exact execAcqSineWin_completes
  | hannInit => exact execHannInit_completes hi
  | hannApply h c => exact execHannApply_completes
  | hannDirect h c => exact execHannDirect_completes
  | bqInitBp j => exact biquadInit_completes hi
  | bqInitBs j => exact biquadInit_completes hi
  | bqInitLp j => exact biquadInit_completes hi
  | bqLoad j => exact execBqLoad_completes hi
  | bqStep j => exact execBqStep_completes hi
  | emaInitFc j => exact execEmaInitFc_completes hi
  | emaInitAlpha j => exact execEmaInitAlpha_completes hi
  | emaStep j => exact execEmaStep_completes hi
  | notchInit j => exact execNotchInit_completes hi
  | notchStep j => exact execNotchStep_completes hi
  | cbInit j => exact execCbInit_completes hi
  | cbPush j => exact execCbPush_completes hi
  | cbGet j => exact execCbGet_completes hi
  | cbMean j => rw [exec_cbMean]; exact cbQuery_completes hi
  | cbMax j => rw [exec_cbMax]; exact cbQuery_completes hi
  | arrMax j => rw [exec_arrMax]; exact cbQuery_completes hi
  | arrMin j => rw [exec_arrMin]; exact cbQuery_completes hi
  | arrSum j => rw [exec_arrSum]; exact cbQuery_completes hi
  | arrMean j => rw [exec_arrMean]; exact cbQuery_completes hi
  | maInit j => exact execMaInit_completes hi
  | maMean j => rw [exec_maMean]; exact maStep_completes hi
  | maVar j => rw [exec_maVar]; exact maStep_completes hi
  | maStd j => rw [exec_maStd]; exact maStep_completes hi
  | gzInit => exact execGzInit_completes hi
  | gzFeed h c => exact execGzFeed_completes hi
  | fftInit => exact execFftInit_completes hi
  | fftRun h c => exact execFftRun_completes
  | fftAbsMax f0 => exact execFftAbsMax_completes hi
  | crc4 => rw [exec_crc4]; exact crcCommand_completes hi
  | crc8 => rw [exec_crc8]; exact crcCommand_completes hi
  | crc32 => rw [exec_crc32]; exact crcCommand_completes hi
  | nvUnlock => exact completes_finish (.locks false s.oblock)
  | nvLock => exact completes_finish (.locks true s.oblock)
  | nvObUnlock => exact completes_finish (.locks s.lock false)
  | nvObLock => exact completes_finish (.locks s.lock true)
  | nvWpSet f0 => exact execNvWpSet_completes hi
  | nvObLaunch => exact execNvObLaunch_completes
  | nvErase => exact execNvErase_completes hi
  | nvProgByte => exact execNvProgByte_completes hi
  | nvProgWord => exact execNvProgWord_completes hi
  | nvReadByte => exact execNvReadByte_completes hi
  | nvRead f0 => exact execNvRead_completes hi
  | nvWrite f0 => exact execNvWrite_completes hi
  | otpRead => exact execOtpRead_completes
  | otpWrite => exact execOtpWrite_completes

end Sys2Proof.Machine
end


section
/-! Proofs of the frame statements: what a command reads of the operands, and what it leaves of the registers and memories
(R17, R19, R23, R65, R67, R160). -/

namespace Sys2Proof.Machine

-- Many short elaborations at once would start a thread each.
set_option Elab.async false

/-! ### Operand reads come first (R17, R162) -/

/-- The command's outcome `r` is the fault of an unwritten operand where one of the operands `l` is unwritten. -/
def FaultsUnless (s : State) (l : List (Fin 8)) (r : Result) : Prop :=
  (∃ n ∈ l, s.args[n].written = false) → r = .fault (.unwrittenArg (.command s.cmd))

theorem FaultsUnless.nil {s : State} {r : Result} : FaultsUnless s [] r := fun ⟨_, hn, _⟩ => absurd hn List.not_mem_nil

theorem FaultsUnless.cons {s : State} {n : Fin 8} {l : List (Fin 8)} {k : Word → Result}
    (h : ∀ v, FaultsUnless s l (k v)) : FaultsUnless s (n :: l) (s.withArg n k) := fun ⟨m, hm, hw⟩ => by
  refine State.withArg_eq_unwrittenArg fun hn => h _ ⟨m, ?_, hw⟩
  exact (List.mem_cons.mp hm).resolve_left fun he => Bool.noConfusion ((he ▸ hw).symm.trans hn)

theorem cbQuery_faultsUnless {s : State} {j : Slot} {value : CircBuf → Nat → F32} :
    FaultsUnless s [0] (s.cbQuery j value) := .cons fun _ => .nil

theorem maStep_faultsUnless {s : State} {j : Slot} {value : MovAvg → F32} : FaultsUnless s [0] (s.maStep j value) :=
  .cons fun _ => .nil

theorem biquadInit_faultsUnless {s : State} {j : Slot} {shape : BiquadDesign → Biquad} :
    FaultsUnless s [0, 1, 2] (s.biquadInit j shape) := .cons fun _ => .cons fun _ => .cons fun _ => .nil

theorem crcCommand_faultsUnless {s : State} {lenOk : Nat → Bool} {value : List Byte → Word} :
    FaultsUnless s [0, 1] (s.crcCommand lenOk value) := .cons fun _ => .cons fun _ => .nil

/-- Every command reads the operands the opcode map names before anything else. -/
theorem exec_faultsUnless (i : Instr) (s : State) : FaultsUnless s i.argsRead (exec i s) := by
  cases i with
  | acqInit => rw [exec_acqInit]; exact .cons fun _ => .cons fun _ => .cons fun _ => .nil
  | acqLoop => exact .nil
  | acqMean h c => exact .nil
  | acqMeanLim h c => rw [exec_acqMeanLim]; exact .cons fun _ => .cons fun _ => .nil
  | acqMeanShift h c => rw [exec_acqMeanShift]; exact .cons fun _ => .nil
  | acqAbsMean h c => exact .nil
  | acqRms h c => exact .nil
  | acqTrueRms h c => rw [exec_acqTrueRms]; exact .cons fun _ => .cons fun _ => .nil
  | acqMax h c => exact .nil
  | acqMin h c => exact .nil
  | acqSetOffset h c => rw [exec_acqSetOffset]; exact .cons fun _ => .nil
  | acqCma h c => rw [exec_acqCma]; exact .cons fun _ => .cons fun _ => .nil
  | acqPeakFwd h c => exact .nil
  | acqPeakRev h c => exact .nil
  | acqSineWin h c => exact .nil
  | hannInit => rw [exec_hannInit]; exact .cons fun _ => .nil
  | hannApply h c => exact .nil
  | hannDirect h c => exact .nil
  | bqInitBp j => rw [exec_bqInitBp]; exact biquadInit_faultsUnless
  | bqInitBs j => rw [exec_bqInitBs]; exact biquadInit_faultsUnless
  | bqInitLp j => rw [exec_bqInitLp]; exact biquadInit_faultsUnless
  | bqLoad j => rw [exec_bqLoad]; exact .cons fun _ => .cons fun _ => .cons fun _ => .cons fun _ => .cons fun _ => .nil
  | bqStep j => rw [exec_bqStep]; exact .cons fun _ => .nil
  | emaInitFc j => rw [exec_emaInitFc]; exact .cons fun _ => .cons fun _ => .nil
  | emaInitAlpha j => rw [exec_emaInitAlpha]; exact .cons fun _ => .nil
  | emaStep j => rw [exec_emaStep]; exact .cons fun _ => .nil
  | notchInit j => rw [exec_notchInit]; exact .cons fun _ => .cons fun _ => .cons fun _ => .nil
  | notchStep j => rw [exec_notchStep]; exact .cons fun _ => .nil
  | cbInit j => rw [exec_cbInit]; exact .cons fun _ => .nil
  | cbPush j => rw [exec_cbPush]; exact .cons fun _ => .nil
  | cbGet j => rw [exec_cbGet]; exact .cons fun _ => .nil
  | cbMean j => rw [exec_cbMean]; exact cbQuery_faultsUnless
  | cbMax j => rw [exec_cbMax]; exact cbQuery_faultsUnless
  | arrMax j => rw [exec_arrMax]; exact cbQuery_faultsUnless
  | arrMin j => rw [exec_arrMin]; exact cbQuery_faultsUnless
  | arrSum j => rw [exec_arrSum]; exact cbQuery_faultsUnless
  | arrMean j => rw [exec_arrMean]; exact cbQuery_faultsUnless
  | maInit j => rw [exec_maInit]; exact .cons fun _ => .nil
  | maMean j => rw [exec_maMean]; exact maStep_faultsUnless
  | maVar j => rw [exec_maVar]; exact maStep_faultsUnless
  | maStd j => rw [exec_maStd]; exact maStep_faultsUnless
  | gzInit => rw [exec_gzInit]; exact .cons fun _ => .cons fun _ => .cons fun _ => .cons fun _ => .cons fun _ => .cons fun _ => .cons fun _ => .nil
  | gzFeed h c => rw [exec_gzFeed]; exact .cons fun _ => .nil
  | fftInit => rw [exec_fftInit]; exact .cons fun _ => .nil
  | fftRun h c => exact .nil
  | fftAbsMax f0 => rw [exec_fftAbsMax]; exact .cons fun _ => .nil
  | crc4 => rw [exec_crc4]; exact crcCommand_faultsUnless
  | crc8 => rw [exec_crc8]; exact crcCommand_faultsUnless
  | crc32 => rw [exec_crc32]; exact crcCommand_faultsUnless
  | nvUnlock => exact .nil
  | nvLock => exact .nil
  | nvObUnlock => exact .nil
  | nvObLock => exact .nil
  | nvWpSet f0 => rw [exec_nvWpSet]; exact .cons fun _ => .nil
  | nvObLaunch => exact .nil
  | nvErase => rw [exec_nvErase]; exact .cons fun _ => .nil
  | nvProgByte => rw [exec_nvProgByte]; exact .cons fun _ => .cons fun _ => .nil
  | nvProgWord => rw [exec_nvProgWord]; exact .cons fun _ => .cons fun _ => .nil
  | nvReadByte => rw [exec_nvReadByte]; exact .cons fun _ => .nil
  | nvRead f0 => rw [exec_nvRead]; exact .cons fun _ => .cons fun _ => .cons fun _ => .nil
  | nvWrite f0 => rw [exec_nvWrite]; exact .cons fun _ => .cons fun _ => .cons fun _ => .nil
  | otpRead => exact .nil
  | otpWrite => exact .nil

/-- The operands of a command are written, or one of them is not. -/
theorem Instr.argsWritten_or (i : Instr) (s : State) :
    Instr.ArgsWritten i s ∨ ∃ n ∈ i.argsRead, s.args[n].written = false := by
  by_cases h : Instr.ArgsWritten i s
  · exact .inl h
  · simp only [Instr.ArgsWritten, not_forall, Bool.not_eq_true] at h
    obtain ⟨n, hn, hw⟩ := h
    exact .inr ⟨n, hn, hw⟩

/-- A command faults for an unwritten operand exactly when one of its operands is unwritten (R17). -/
theorem exec_eq_unwrittenArg_iff (i : Instr) (s : State) :
    exec i s = .fault (.unwrittenArg (.command s.cmd)) ↔ ∃ n ∈ i.argsRead, s.args[n].written = false := by
  refine ⟨fun h => (Instr.argsWritten_or i s).resolve_left fun hi => ?_, exec_faultsUnless i s⟩
  have hdone := exec_completes hi
  rw [h] at hdone
  exact Fault.noConfusion hdone

/-- A command that gives a next state has its effect. -/
theorem exec_effect {i : Instr} {s t : State} (h : exec i s = .next t) : CommandEffect i s t := by
  rcases Instr.argsWritten_or i s with hi | hu
  · exact (exec_completes hi).of_next h
  · rw [exec_faultsUnless i s hu] at h
    cases h

/-- No command is refused. -/
theorem exec_ne_refused (i : Instr) (s : State) (r : Refusal) : exec i s ≠ .refused r := by
  intro h
  rcases Instr.argsWritten_or i s with hi | hu
  · have hdone := exec_completes hi
    rw [h] at hdone
    exact hdone
  · rw [exec_faultsUnless i s hu] at h
    cases h

/-! ### Registers (R17, R19, R23) -/

/-- No command changes an operand register, a register that is HOST's alone, the parameters, or HOST's program. -/
theorem CommandCore.hostFields {i : Instr} {s u : State} (h : CommandCore s i u) :
    u.args = s.args ∧ u.cmd = s.cmd ∧ u.cfg = s.cfg ∧ u.crc4Poly = s.crc4Poly ∧ u.crc4Init = s.crc4Init ∧
      u.crc8Poly = s.crc8Poly ∧ u.crc8Init = s.crc8Init ∧ u.hostProgram = s.hostProgram ∧ u.hostPos = s.hostPos ∧
      u.hostData = s.hostData ∧ u.schedule = s.schedule ∧ u.turnCount = s.turnCount := by
  cases h <;> exact ⟨rfl, rfl, rfl, rfl, rfl, rfl, rfl, rfl, rfl, rfl, rfl, rfl⟩

/-- Settles O56: an operand is read or the command faults, and what it then writes is `CommandEffect`. -/
theorem commandsWriteOnlyNamedRegisters : Obligations.CommandsWriteOnlyNamedRegisters := by
  refine fun i s => ⟨exec_ne_refused i s, fun t ht => ?_⟩
  obtain ⟨u, res, rc, tape, count, hcore, hres, hcode, rfl⟩ := exec_effect ht
  obtain ⟨hargs, hcmd, hcfg, h4p, h4i, h8p, h8i, hprog, hpos, hdata, hsched, hturn⟩ := hcore.hostFields
  exact ⟨hargs, hcmd, hcfg, hres, h4p, h4i, h8p, h8i, hprog, hpos, hdata, hsched, hturn, hcode⟩

/-! ### NV bytes (R38, R139) -/

/-- An NV byte is what the memory reads there (R139). -/
theorem State.read_nv (s : State) (a : Nat) : Memory.read (nvBlank s.cfg) s.nv a = some (s.nvByte a) := by
  unfold Memory.read State.nvByte nvBlank
  cases Memory.lookup s.nv a <;> rfl

theorem State.nvByte_congr {s t : State} (hcfg : t.cfg = s.cfg) (hnv : t.nv = s.nv) (a : Nat) :
    t.nvByte a = s.nvByte a := by
  rw [State.nvByte, State.nvByte, hcfg, hnv]

/-- Storing NV bytes leaves the bytes outside the range. -/
theorem State.nvByte_setNv_outside {s : State} {lo a : Nat} {bs : List Byte} (h : a < lo ∨ lo + bs.length ≤ a) :
    (s.setNv lo bs).nvByte a = s.nvByte a :=
  Option.some.inj <| by
    rw [← State.read_nv, ← State.read_nv, State.setNv_cfg, State.setNv_nv, Memory.read_setRange_outside h]

/-- A stored NV byte reads as what was stored. -/
theorem State.nvByte_setNv_inside {s : State} {lo k : Nat} {bs : List Byte} (h : k < bs.length) :
    (s.setNv lo bs).nvByte (lo + k) = bs[k] :=
  Option.some.inj <| by
    rw [← State.read_nv, State.setNv_cfg, State.setNv_nv, Memory.read_setRange, if_pos (by omega),
      Nat.add_sub_cancel_left, List.getElem?_eq_getElem h]

/-! ### Memories (R45, R94, R114, R115, R147–R153) -/

theorem State.HasArg.value_eq {s : State} {n : Fin 8} {v : Word} (h : s.HasArg n v) : s.args[n].value = v := by rw [h]

/-- A ring byte no command works on is left. -/
theorem CommandCore.read_ring {i : Instr} {s u : State} (h : CommandCore s i u) {a : Nat}
    (ha : ∀ h c, Instr.Mutates i h c → ∀ hf, s.resolveHalf h = some hf → ¬s.InChannel hf c a) :
    Memory.read unwritten u.ring a = Memory.read unwritten s.ring a := by
  cases h with
  | channel hi hhalf _ hout => exact hout a (ha _ _ hi _ hhalf)
  | _ => rfl

/-- An XBUF byte outside the range the two reads fill is left. -/
theorem CommandCore.read_xbuf {i : Instr} {s u : State} (h : CommandCore s i u) {a : Nat} (hotp : i = .otpRead → 32 ≤ a)
    (hread : ∀ f0, i = .nvRead f0 → ¬((s.args[(2 : Fin 8)]).value.toNat ≤ a ∧
      a < (s.args[(2 : Fin 8)]).value.toNat + (s.args[(1 : Fin 8)]).value.toNat)) :
    Memory.read unwritten u.xbuf a = Memory.read unwritten s.xbuf a := by
  cases h with
  | nvRead hn hxo hbs =>
    have := hread _ rfl
    rw [hn.value_eq, hxo.value_eq] at this
    exact Memory.read_setRange_outside (by omega)
  | otpRead hbs =>
    have := hotp rfl
    exact Memory.read_setRange_outside (by omega)
  | _ => rfl

/-- A byte of the FFT table the FFT commands do not make is left. -/
theorem CommandCore.read_tab {i : Instr} {s u : State} (h : CommandCore s i u) {a : Nat}
    (hinit : i = .fftInit → 4 * (s.args[(0 : Fin 8)]).value.toNat ≤ a)
    (hrun : ∀ h c, i = .fftRun h c → 4 * s.fftLen.toNat ≤ a) :
    Memory.read unwritten u.tab a = Memory.read unwritten s.tab a := by
  cases h with
  | fftClear harg _ =>
    have := hinit rfl
    rw [harg.value_eq] at this
    exact (Memory.read_clearRange ..).trans (if_neg (by omega))
  | fftTable hbs =>
    have := hrun _ _ rfl
    exact Memory.read_setRange_outside (by omega)
  | _ => rfl

/-- A byte of the Hanning table the init does not make is left. -/
theorem CommandCore.read_hcoef {i : Instr} {s u : State} (h : CommandCore s i u) {a : Nat}
    (hinit : i = .hannInit → 4 * (s.args[(0 : Fin 8)]).value.toNat ≤ a) :
    Memory.read unwritten u.hcoef a = Memory.read unwritten s.hcoef a := by
  cases h with
  | hannTable harg _ hbs =>
    have := hinit rfl
    rw [harg.value_eq] at this
    exact Memory.read_setRange_outside (by omega)
  | _ => rfl

/-- An NV byte that no erase or program names is left. -/
theorem CommandCore.nvByte_eq {i : Instr} {s u : State} (h : CommandCore s i u) {a : Nat}
    (herase : i = .nvErase → ¬s.cfg.InSector (s.args[(0 : Fin 8)]).value.toNat a)
    (hbyte : i = .nvProgByte → a ≠ (s.args[(0 : Fin 8)]).value.toNat)
    (hword : i = .nvProgWord →
      ¬((s.args[(0 : Fin 8)]).value.toNat ≤ a ∧ a < (s.args[(0 : Fin 8)]).value.toNat + 4)) :
    u.nvByte a = s.nvByte a := by
  cases h with
  | erase harg _ _ hbs =>
    have := herase rfl
    rw [harg.value_eq, Params.InSector] at this
    exact State.nvByte_setNv_outside (s := s.setTgt _) (by omega)
  | program harg hi _ _ =>
    rw [harg.value_eq] at hbyte hword
    refine State.nvByte_setNv_outside (s := s.setTgt _) ?_
    rcases hi with ⟨rfl, hlen⟩ | ⟨rfl, hlen, -⟩
    · have := hbyte rfl; omega
    · have := hword rfl; omega
  | _ => rfl

/-- Settles O57: the byte frame of each memory, from what `CommandCore` lets a command store. -/
theorem commandsKeepOtherMemory : Obligations.CommandsKeepOtherMemory := by
  intro i s t ht
  obtain ⟨u, res, rc, tape, count, hcore, -, -, rfl⟩ := exec_effect ht
  exact ⟨fun _ => hcore.read_ring, fun _ => hcore.read_xbuf, fun _ => hcore.read_tab, fun _ => hcore.read_hcoef,
    fun _ => hcore.nvByte_eq⟩

end Sys2Proof.Machine
end


section
/-! What a step can do, said once (R15, R16): HOST's access, CMDU's micro-step, PROD's steps and ENV's power loss, and the
rule by which a property is carried over a step (`StepKeeps`). -/

namespace Sys2Proof.Machine

-- Many short elaborations at once would start a thread each.
set_option Elab.async false

/-! ### Fields no invariant speaks of -/

/-- `t` differs from `s` at most in the operand and result registers, `CMD`, `RC`, the CRC registers, the locks, the composite
in progress, and the model's own fields of the run. -/
def SameUnits (s t : State) : Prop :=
  t = { s with
    args := t.args, res := t.res, cmd := t.cmd, rc := t.rc, crc4Poly := t.crc4Poly, crc4Init := t.crc4Init
    crc8Poly := t.crc8Poly, crc8Init := t.crc8Init, lock := t.lock, oblock := t.oblock, progress := t.progress
    drawTape := t.drawTape, drawCount := t.drawCount, schedule := t.schedule, turnCount := t.turnCount
    hostPos := t.hostPos, hostData := t.hostData }

theorem SameUnits.refl (s : State) : SameUnits s s := rfl

theorem SameUnits.atTurn (s : State) : SameUnits s s.atTurn := by
  obtain ⟨l, n, h⟩ := s.takeTurn_eq
  rw [State.atTurn, h]
  exact rfl

theorem SameUnits.relock (s : State) : SameUnits s s.relock := rfl

/-! ### HOST's access -/

/-- What a HOST access does: bookkeeping, a store to a window, or a command (R26, R47, R21). -/
inductive HostEffect (s : State) : State → Prop
  | registers {t : State} (h : SameUnits s t) (hp : t.progress = s.progress) : HostEffect s t
  | ring {t u : State} (lo : Nat) (bs : List Byte) (h : SameUnits s u) (hp : u.progress = s.progress)
      (ht : t = { u with ring := Memory.setRange unwritten u.ring lo bs }) : HostEffect s t
  | xbuf {t u : State} (lo : Nat) (bs : List Byte) (h : SameUnits s u) (hp : u.progress = s.progress)
      (ht : t = u.setXbuf lo bs) : HostEffect s t
  | command {t u : State} (i : Instr) (h : SameUnits s u) (hp : u.progress = s.progress) (he : CommandEffect i u t) :
      HostEffect s t

theorem State.command_effect {s u t : State} {v : Word} (hsu : SameUnits s u) (hp : u.progress = s.progress)
    (h : u.command v = .next t) : HostEffect s t := by
  have hcmd : SameUnits s { u with cmd := v } := by rw [hsu]; exact rfl
  unfold State.command at h
  cases hd : decode u.cfg v with
  | none =>
    rw [hd] at h
    cases h
    exact .registers (by rw [hsu]; exact rfl) hp
  | some i =>
    rw [hd] at h
    exact .command i hcmd hp (exec_effect h)

theorem State.writeReg_effect {s u t : State} {r : Reg} {v : Word} (hsu : SameUnits s u) (hp : u.progress = s.progress)
    (h : u.writeReg r v = .next t) : HostEffect s t := by
  cases r with
  | cmd => exact State.command_effect hsu hp h
  | _ => cases h; exact .registers (by rw [hsu]; exact rfl) hp

theorem State.writeWindow_effect {s u : State} {w : Window} {rel : Nat} {bs : List Byte} (hsu : SameUnits s u)
    (hp : u.progress = s.progress) : HostEffect s (u.writeWindow w rel bs) := by
  cases w with
  | ring => exact .ring rel bs hsu hp rfl
  | xbuf => exact .xbuf rel bs hsu hp rfl
  | fftTab => exact .registers hsu hp
  | hannTab => exact .registers hsu hp

theorem State.hostStep_effect {s t : State} {line : HostLine} (h : s.hostStep line = .next t) : HostEffect s t := by
  cases line with
  | write addr width value =>
    simp only [State.hostStep, State.hostWrite] at h
    split at h
    · cases h
    · exact State.writeReg_effect (u := { s with hostPos := s.hostPos + 1 }) rfl rfl h
    · cases h
      exact State.writeWindow_effect rfl rfl
  | read addr width again =>
    simp only [State.hostStep] at h
    split at h
    · cases h
    · cases h
      exact .registers rfl rfl

/-! ### CMDU's micro-step -/

/-- What a micro-step of a composite does to NV and the options (R140, R152, R154): nothing, an erase, a program of one byte or of a word
of the OTP record, a write of the OTP sector's option bit, or a launch of the options. -/
inductive NvEffect (s : State) : State → Prop
  | same : NvEffect s s
  | erase {k : Nat} {bs : List Byte} (hwp : s.wpBit k = false) (hbs : bs.length = s.cfg.sz k) :
      NvEffect s ((s.setTgt (.bytes (s.cfg.sb k) (s.cfg.sz k))).setNv (s.cfg.sb k) bs)
  | program {a : Nat} {bs : List Byte} (hwp : s.wpBit (s.sectorOf a) = false)
      (hspan : bs.length ≤ 1 ∨ ∃ w, w ≤ 7 ∧ a = s.cfg.sb s.cfg.otpSector + 4 * w ∧ bs.length ≤ 4) :
      NvEffect s ((s.setTgt (.bytes a bs.length)).setNv a bs)
  | optBit {b : Bool} :
      NvEffect s ((s.setTgt (.optBit s.cfg.otpSector)).setOptWp (setBit s.nvOptWp s.cfg.otpSector b))
  | launch : NvEffect s (s.setWp s.nvOptWp)

/-- `r` is the outcome of a micro-step: its effect on NV and the options, and draws. -/
def MicroOutcome (s : State) (r : State × Bool) : Prop := ∃ u, NvEffect s u ∧ ∃ t n, r.1 = u.withDraws t n

theorem MicroOutcome.refused (s : State) : MicroOutcome s (s, false) := ⟨s, .same, s.drawTape, s.drawCount, rfl⟩

theorem State.nvEraseStep_outcome (s : State) (k : Nat) : MicroOutcome s (s.nvEraseStep k) := by
  rcases s.nvEraseStep_cases k with ⟨-, heq⟩ | ⟨-, hwp, t, n, bs, ok, hbs, -, heq⟩ <;> rw [heq]
  · exact .refused s
  · exact ⟨_, .erase hwp hbs, t, n, rfl⟩

theorem State.nvProgramStep_outcome {s : State} {a : Nat} {v : List Byte}
    (hspan : v.length ≤ 1 ∨ ∃ w, w ≤ 7 ∧ a = s.cfg.sb s.cfg.otpSector + 4 * w ∧ v.length ≤ 4) :
    MicroOutcome s (s.nvProgramStep a v) := by
  rcases s.nvProgramStep_cases a v with ⟨-, heq⟩ | ⟨-, hwp, t, n, bs, ok, hbs, -, heq⟩ <;> rw [heq]
  · exact .refused s
  · rw [← hbs] at hspan ⊢
    exact ⟨_, .program hwp hspan, t, n, rfl⟩

theorem State.optWriteStep_outcome (s : State) (b : Bool) : MicroOutcome s (s.optWriteStep s.cfg.otpSector b) := by
  rcases s.optWriteStep_cases s.cfg.otpSector b with ⟨-, heq⟩ | ⟨-, t, n, b', ok, -, heq⟩ <;> rw [heq]
  · exact .refused s
  · exact ⟨_, .optBit, t, n, rfl⟩

theorem State.optLaunchStep_outcome (s : State) : MicroOutcome s s.optLaunchStep := by
  rcases s.optLaunchStep_cases with ⟨-, heq⟩ | ⟨-, t, n, ok, heq⟩ <;> rw [heq]
  · exact .refused s
  · cases ok
    · exact ⟨s, .same, t, n, rfl⟩
    · exact ⟨_, .launch, t, n, rfl⟩

/-- What a micro-step leaves: its effect on NV and the options, and bookkeeping. -/
def MicroEffect (s t : State) : Prop := ∃ u, NvEffect s u ∧ SameUnits u t

/-- After a micro-step a composite goes on or ends; either is bookkeeping. -/
theorem Progress.continueComposite_effect {p : Progress} {r : State × Bool} {onFail : State → State} {s t : State}
    (hr : MicroOutcome s r) (hfail : ∀ u, SameUnits u (onFail u)) (h : p.continueComposite r onFail = .next t) :
    MicroEffect s t := by
  obtain ⟨u, hu, tape, n, hr⟩ := hr
  rcases p.continueComposite_cases r onFail with ⟨-, heq⟩ | ⟨-, heq⟩ <;> rw [heq] at h <;> cases h
  · exact ⟨u, hu, by rw [hr]; exact rfl⟩
  · exact ⟨u, hu, by rw [hfail r.1, hr]; exact rfl⟩

theorem State.nvWriteStep_effect {s t : State} {p : Progress} {a : Nat} {payload : List Byte}
    (h : s.nvWriteStep p a payload = .next t) : MicroEffect s t := by
  unfold State.nvWriteStep at h
  split at h
  · exact Progress.continueComposite_effect (s.nvEraseStep_outcome _) SameUnits.relock h
  · split at h
    · exact Progress.continueComposite_effect (State.nvProgramStep_outcome (.inl (le_of_eq rfl))) SameUnits.relock h
    · cases h
      exact ⟨s, .same, rfl⟩

theorem State.otpWriteStep_effect {s t : State} {p : Progress} {record : List Byte}
    (h : s.otpWriteStep p record = .next t) : MicroEffect s t := by
  have hid : ∀ u : State, SameUnits u (id u) := fun u => .refl u
  simp only [State.otpWriteStep] at h
  split_ifs at h
  · exact Progress.continueComposite_effect (s.optWriteStep_outcome _) hid h
  · exact Progress.continueComposite_effect s.optLaunchStep_outcome hid h
  · exact Progress.continueComposite_effect (s.nvEraseStep_outcome _) hid h
  · refine Progress.continueComposite_effect (State.nvProgramStep_outcome (.inr ⟨p.index - 4, by omega, rfl, ?_⟩)) hid h
    exact List.length_take_le _ _
  · exact Progress.continueComposite_effect (s.optWriteStep_outcome _) hid h
  · exact Progress.continueComposite_effect s.optLaunchStep_outcome hid h
  · cases h
    exact ⟨s, .same, rfl⟩

theorem State.microStep_effect {s t : State} {p : Progress} (h : s.microStep p = .next t) : MicroEffect s t := by
  unfold State.microStep at h
  split at h
  · exact State.nvWriteStep_effect h
  · exact State.otpWriteStep_effect h

/-! ### Carrying a property over a step -/

/-- Every step but a power loss leads from states with `Pre` to states with `Post`: one rule for each thing a step can do. -/
structure StepKeeps (Pre Post : State → Prop) : Prop where
  bookkeepingPre : ∀ s t, SameUnits s t → Pre s → Pre t
  bookkeepingPost : ∀ s t, SameUnits s t → Post s → Post t
  clearTgt : ∀ s, Pre s → Pre s.clearTgt
  pass : ∀ s, Pre s → Post s
  ringStore : ∀ s lo bs, Pre s → Post { s with ring := Memory.setRange unwritten s.ring lo bs }
  xbufStore : ∀ s lo bs, Pre s → Post (s.setXbuf lo bs)
  command : ∀ s i u, CommandCore s i u → Pre s → Post u
  micro : ∀ s u, NvEffect s u → Pre s → Post u
  produce : ∀ s, s.armed = true → Pre s → Post s.produceStep
  complete : ∀ s e rest, s.fifo = e :: rest → Pre s → Post { s with fifo := rest, active := e.active }

theorem State.completeStep_of_cons {s : State} {e : Completion} {rest : List Completion} (h : s.fifo = e :: rest) :
    s.completeStep = { s with fifo := rest, active := e.active } := by
  rw [State.completeStep, h]

theorem StepKeeps.hostEffect {Pre Post : State → Prop} (hk : StepKeeps Pre Post) {s t : State} (he : HostEffect s t)
    (hpre : Pre s) : Post t := by
  cases he with
  | registers h _ => exact hk.pass t (hk.bookkeepingPre s t h hpre)
  | ring lo bs h _ ht => exact ht ▸ hk.ringStore _ lo bs (hk.bookkeepingPre _ _ h hpre)
  | xbuf lo bs h _ ht => exact ht ▸ hk.xbufStore _ lo bs (hk.bookkeepingPre _ _ h hpre)
  | command i h _ he =>
    obtain ⟨u, res, rc, tape, count, hcore, -, -, ht⟩ := he
    exact hk.bookkeepingPost u t (by rw [ht]; exact rfl) (hk.command _ i u hcore (hk.bookkeepingPre _ _ h hpre))

/-- A property is carried over a step if `StepKeeps` says so and a power loss keeps it. -/
theorem StepKeeps.step {Pre Post : State → Prop} (hk : StepKeeps Pre Post) {s t : State} (hpre : Pre s)
    (hloss : s.turn = .powerLoss → Pre s.atTurn → Post s.atTurn.powerLossStep) (ht : step s = .next t) : Post t := by
  have hat : Pre s.atTurn := hk.bookkeepingPre _ _ (.atTurn s) hpre
  have hclear : Pre s.atTurn.clearTgt := hk.clearTgt _ hat
  rcases step_cases s with ⟨-, hs⟩ | ⟨-, -, line, -, hs⟩ | ⟨-, p, -, hs⟩ | ⟨-, -, harmed, hs⟩ | ⟨-, -, hfifo, hs⟩ |
      ⟨hturn, hs⟩ <;> rw [hs] at ht
  · cases ht
    exact hk.pass _ hat
  · exact hk.hostEffect (State.hostStep_effect ht) hclear
  · obtain ⟨u, hnv, hsame⟩ := State.microStep_effect ht
    exact hk.bookkeepingPost _ _ hsame (hk.micro _ _ hnv hclear)
  · cases ht
    exact hk.produce _ harmed hclear
  · cases ht
    obtain ⟨e, rest, hcons⟩ := List.exists_cons_of_ne_nil hfifo
    rw [State.completeStep_of_cons (s := s.takeTurn.2.clearTgt) hcons]
    exact hk.complete _ e rest hcons hclear
  · cases ht
    exact hloss hturn hat

end Sys2Proof.Machine
end


section
/-! Proofs of the invariants: what every step keeps (R8, R20–R28, R33–R38, R71, R72, R163), that reset meets it (R41), and
what a power loss leaves (R158, R172, R173). -/

namespace Sys2Proof.Machine

-- Many short elaborations at once would start a thread each.
set_option Elab.async false

/-! ### The tear of a power loss (R158) -/

/-- Everything a tear can do: draws only, drawn bytes in the target range, or a drawn bit at the target bit. -/
theorem State.tear_cases (s : State) :
    (∃ t n, s.tear = s.withDraws t n) ∨
    (s.drawBool.1 = true ∧ ∃ lo k bs t n, s.tgt = .bytes lo k ∧ bs.length = k ∧
      s.tear = (s.withDraws t n).setNv lo bs) ∨
    (s.drawBool.1 = true ∧ ∃ k b t n, s.tgt = .optBit k ∧
      s.tear = (s.withDraws t n).setOptWp (setBit s.nvOptWp k b)) := by
  obtain ⟨t1, n1, h1⟩ := s.draw_eq
  unfold State.tear
  split
  · exact .inl ⟨s.drawTape, s.drawCount, rfl⟩
  · rename_i lo k htgt
    obtain ⟨t2, n2, h2⟩ := s.draw.2.drawBytes_eq k
    simp only [State.drawBool_snd]
    split
    · rename_i hd
      refine .inr (.inl ⟨hd, lo, k, (s.draw.2.drawBytes k).1, t2, n2, htgt, State.drawBytes_length _ _, ?_⟩)
      rw [h2, h1]; rfl
    · exact .inl ⟨t1, n1, h1⟩
  · rename_i k htgt
    obtain ⟨t2, n2, h2⟩ := s.draw.2.draw_eq
    simp only [State.drawBool_snd]
    split
    · rename_i hd
      refine .inr (.inr ⟨hd, k, s.draw.2.drawBool.1, t2, n2, htgt, ?_⟩)
      rw [h2, h1]; rfl
    · exact .inl ⟨t1, n1, h1⟩

/-- A tear leaves the parameters and the fields of the run but the draws. -/
theorem State.tear_fields (s : State) :
    s.tear.cfg = s.cfg ∧ s.tear.schedule = s.schedule ∧ s.tear.turnCount = s.turnCount ∧
      s.tear.hostProgram = s.hostProgram := by
  rcases s.tear_cases with ⟨t, n, h⟩ | ⟨-, lo, k, bs, t, n, -, -, h⟩ | ⟨-, k, b, t, n, -, h⟩ <;> rw [h] <;>
    exact ⟨rfl, rfl, rfl, rfl⟩

/-! ### Option bits (R20, R140) -/

/-- Setting a bit of a word sets that bit and leaves the others. -/
theorem setBit_getLsbD (v : Word) (k j : Nat) (b : Bool) :
    (setBit v k b).getLsbD j = if j = k ∧ k < 32 then b else v.getLsbD j := by
  have hmask : (BitVec.ofNat 32 (2 ^ k)).getLsbD j = decide (j = k ∧ k < 32) := by
    rw [BitVec.getLsbD_ofNat, Nat.testBit_two_pow]
    by_cases hj : j = k
    · subst hj; simp
    · simp [hj, Ne.symm hj]
  by_cases hjk : j = k ∧ k < 32
  · obtain ⟨rfl, hlt⟩ := hjk
    have hone : (BitVec.ofNat 32 (2 ^ j)).getLsbD j = true := hmask.trans (decide_eq_true ⟨rfl, hlt⟩)
    rw [if_pos ⟨rfl, hlt⟩]
    unfold setBit
    cases b with
    | true => simp only [if_true, BitVec.getLsbD_or, hone, Bool.or_true]
    | false =>
      simp only [Bool.false_eq_true, if_false, BitVec.getLsbD_and, BitVec.getLsbD_not, hone, Bool.not_true, Bool.and_false]
  · rw [if_neg hjk]
    unfold setBit
    cases b with
    | true => simp only [if_true, BitVec.getLsbD_or, hmask, hjk, decide_false, Bool.or_false]
    | false =>
      simp only [Bool.false_eq_true, if_false, BitVec.getLsbD_and, BitVec.getLsbD_not, hmask, hjk, decide_false,
        Bool.not_false, Bool.and_true]
      by_cases hj : j < 32
      · simp [hj]
      · simp [BitVec.getLsbD_of_ge v j (by omega)]

/-- A word is below a power of two exactly when its bits from there on are 0. -/
theorem toNat_lt_two_pow_iff {v : Word} {n : Nat} : v.toNat < 2 ^ n ↔ ∀ j, n ≤ j → v.getLsbD j = false := by
  constructor
  · intro h j hj
    exact Nat.testBit_lt_two_pow (Nat.lt_of_lt_of_le h (Nat.pow_le_pow_right (by decide) hj))
  · intro h
    exact Nat.lt_pow_two_of_testBit _ h

/-- Setting the bit of a sector sets no bit above the sectors. -/
theorem setBit_toNat_lt {v : Word} {k n : Nat} (hv : v.toNat < 2 ^ n) (hk : k < n) (b : Bool) :
    (setBit v k b).toNat < 2 ^ n := by
  rw [toNat_lt_two_pow_iff] at hv ⊢
  intro j hj
  rw [setBit_getLsbD, if_neg (by omega)]
  exact hv j hj

/-! ### Parameters (R8) -/

/-- The constraints of R8 that the invariants use. -/
theorem Params.valid_bounds {p : Params} (h : p.valid = true) :
    p.ringBytes ≤ 0x100000 ∧ p.nvSectors ≤ 32 ∧ p.otpSector < p.nvSectors ∧ 32 ≤ p.sz p.otpSector ∧
      ∀ z ∈ p.sectorSizes, z % 4 = 0 := by
  simp only [Params.valid, Bool.and_eq_true, decide_eq_true_eq, List.all_eq_true, beq_iff_eq, Params.otpRecBytes,
    and_assoc] at h
  obtain ⟨-, hring, -, -, -, -, -, -, -, -, -, -, -, -, -, -, -, -, -, -, -, -, -, hn, hz, ho, -, -, -, hotp, -⟩ := h
  exact ⟨hring, hn, ho, of_decide_eq_true hotp, hz⟩

/-! ### Canonical memories (log 10) -/

/-- The canonical form with given parameters. -/
def State.CanonicalWith (cfg : Params) (s : State) : Prop := s.Canonical ∧ s.cfg = cfg

theorem State.CanonicalWith.setNv {cfg : Params} {s : State} (h : s.CanonicalWith cfg) (lo : Nat) (bs : List Byte) :
    (s.setNv lo bs).CanonicalWith cfg := by
  obtain ⟨⟨hr, hx, ht, hc, hn⟩, hcfg⟩ := h
  exact ⟨⟨hr, hx, ht, hc, Memory.wf_setRange hn lo bs⟩, hcfg⟩

/-- A command keeps the memories canonical: whatever it stores or clears, it stores or clears with the memory's operations. -/
theorem CommandCore.keeps_canonical {cfg : Params} {i : Instr} {s u : State} (h : CommandCore s i u)
    (hs : s.CanonicalWith cfg) : u.CanonicalWith cfg := by
  have ⟨⟨hr, hx, ht, hc, hn⟩, hcfg⟩ := hs
  cases h with
  | channel _ _ hwf _ => exact ⟨⟨hwf hr, hx, ht, hc, hn⟩, hcfg⟩
  | hannTable => exact ⟨⟨hr, hx, ht, Memory.wf_setRange hc _ _, hn⟩, hcfg⟩
  | fftClear => exact ⟨⟨hr, hx, Memory.wf_clearRange ht _ _, hc, hn⟩, hcfg⟩
  | fftTable => exact ⟨⟨hr, hx, Memory.wf_setRange ht _ _, hc, hn⟩, hcfg⟩
  | nvRead => exact ⟨⟨hr, Memory.wf_setRange hx _ _, ht, hc, hn⟩, hcfg⟩
  | otpRead => exact ⟨⟨hr, Memory.wf_setRange hx _ _, ht, hc, hn⟩, hcfg⟩
  | erase => exact State.CanonicalWith.setNv (s := s.setTgt _) hs _ _
  | program => exact State.CanonicalWith.setNv (s := s.setTgt _) hs _ _
  | _ => exact hs

theorem stepKeeps_canonical (cfg : Params) : StepKeeps (State.CanonicalWith cfg) (State.CanonicalWith cfg) where
  bookkeepingPre := fun s t h hs => by rw [h]; exact hs
  bookkeepingPost := fun s t h hs => by rw [h]; exact hs
  clearTgt := fun s hs => hs
  pass := fun s hs => hs
  ringStore := fun s lo bs ⟨⟨hr, hx, ht, hc, hn⟩, hcfg⟩ => ⟨⟨Memory.wf_setRange hr lo bs, hx, ht, hc, hn⟩, hcfg⟩
  xbufStore := fun s lo bs ⟨⟨hr, hx, ht, hc, hn⟩, hcfg⟩ => ⟨⟨hr, Memory.wf_setRange hx lo bs, ht, hc, hn⟩, hcfg⟩
  command := fun s i u h hs => h.keeps_canonical hs
  micro := fun s u h hs => by
    cases h with
    | erase => exact State.CanonicalWith.setNv (s := s.setTgt _) hs _ _
    | program => exact State.CanonicalWith.setNv (s := s.setTgt _) hs _ _
    | _ => exact hs
  produce := fun s _ ⟨⟨hr, hx, ht, hc, hn⟩, hcfg⟩ => by
    obtain ⟨tape, n, hd⟩ := s.draw_eq
    unfold State.produceStep
    rw [hd]
    exact ⟨⟨Memory.wf_setRange hr _ _, hx, ht, hc, hn⟩, hcfg⟩
  complete := fun s _ _ _ hs => hs

/-- A tear keeps NV canonical. -/
theorem State.CanonicalWith.tear {cfg : Params} {s : State} (h : s.CanonicalWith cfg) : s.tear.CanonicalWith cfg := by
  rcases s.tear_cases with ⟨t, n, ht⟩ | ⟨-, lo, k, bs, t, n, -, -, ht⟩ | ⟨-, k, b, t, n, -, ht⟩ <;> rw [ht]
  · exact h
  · exact State.CanonicalWith.setNv (s := s.withDraws t n) h lo bs
  · exact h

/-- Settles O47: every store and clear keeps the form, and a power loss empties the windows. -/
theorem stepKeepsMemoriesCanonical : Obligations.StepKeepsMemoriesCanonical := fun s t hs ht => by
  refine (stepKeeps_canonical s.cfg).step (s := s) ⟨hs, rfl⟩ (fun _ hat => ?_) ht
  obtain ⟨⟨-, -, -, -, hn⟩, hcfg⟩ := hat.tear
  exact ⟨⟨Memory.wf_nil _, Memory.wf_nil _, Memory.wf_nil _, Memory.wf_nil _, hn⟩, hcfg⟩

/-! ### The arbiter (R22, R28, R71, R72) -/

/-- Completions that alternate up to `d` go on alternating with `d`. -/
theorem alternation_append {e d : Completion} {l : List Completion} (h : alternation e l = some d) :
    alternation e (l ++ [d]) = some d.other := by
  induction l generalizing e with
  | nil => cases h; simp [alternation]
  | cons c l ih =>
    rw [alternation] at h
    split at h
    · rename_i hc; simpa [alternation, hc] using ih h
    · cases h

/-- The completion after the one that sets `ACTIVE` is the other one (R72). -/
theorem Completion.expected_active (e : Completion) : e.active.expected = e.other := by cases e <;> rfl

theorem Completion.active_ne_notAvailable (e : Completion) : e.active ≠ .notAvailable := by cases e <;> decide

/-- The oldest completion is the expected one, and the rest alternates on from it. -/
theorem alternation_cons {e c d : Completion} {l : List Completion} (h : alternation e (c :: l) = some d) :
    c = e ∧ alternation c.other l = some d := by
  rw [alternation] at h
  split at h
  · rename_i hc; exact ⟨hc, hc ▸ h⟩
  · cases h

/-- The ring buffer of an armed producer has at most 2^20 elements (R8, R22). -/
theorem State.ArmedInv.ringElems_bounds {s : State} (hv : s.cfg.valid = true) (h : s.ArmedInv) :
    1 ≤ s.halfElems ∧ s.ringElems = 2 * s.halfElems ∧ s.ringElems ≤ 0x100000 := by
  obtain ⟨hC, -, hS, hfit, -, -⟩ := h
  have hhalf : 1 ≤ s.halfElems := Nat.mul_pos hC hS
  have hring := (Params.valid_bounds hv).1
  have hle : s.ringElems ≤ 2 * s.acqC.toNat * s.acqS.toNat * s.elemBytes := by
    rw [State.ringElems, State.halfElems, ← Nat.mul_assoc]
    exact Nat.le_mul_of_pos_right _ s.elemBytes_pos
  exact ⟨hhalf, rfl, by omega⟩

/-- The write pointer and the completions after a produce step (R71). -/
theorem State.ArmedInv.produce {s : State} (hv : s.cfg.valid = true) (h : s.ArmedInv) :
    (BitVec.ofNat 32 s.nextWptr).toNat = s.nextWptr ∧ s.nextWptr < s.ringElems ∧
      s.reached = (if s.nextWptr = s.halfElems then [.half] else if s.nextWptr = 0 then [.full] else []) ∧
      alternation s.active.expected (s.fifo ++ s.reached) =
        some (if s.nextWptr < s.halfElems then .half else .full) := by
  obtain ⟨hhalf, hring, hmax⟩ := State.ArmedInv.ringElems_bounds hv h
  obtain ⟨-, -, -, -, hw, halt⟩ := h
  have hlt : s.nextWptr < s.ringElems := Nat.mod_lt _ (by omega)
  have hwrap : s.nextWptr = if s.wptr.toNat + 1 = s.ringElems then 0 else s.wptr.toNat + 1 := by
    unfold State.nextWptr
    split
    · rename_i he; rw [he, Nat.mod_self]
    · exact Nat.mod_eq_of_lt (by omega)
  have hreached : s.reached = (if s.nextWptr = s.halfElems then [.half] else if s.nextWptr = 0 then [.full] else []) := by
    unfold State.reached
    by_cases h1 : s.nextWptr = s.halfElems
    · rw [if_pos h1, if_neg (by omega), if_pos h1]; rfl
    · rw [if_neg h1, if_neg h1]; rfl
  refine ⟨by rw [BitVec.toNat_ofNat]; exact Nat.mod_eq_of_lt (by omega), hlt, hreached, ?_⟩
  rw [hreached]
  unfold State.nextReached at halt
  by_cases h1 : s.nextWptr = s.halfElems
  · have hlow : s.wptr.toNat < s.halfElems := by split at hwrap <;> omega
    rw [if_pos hlow] at halt
    rw [if_pos h1, if_neg (by omega)]
    exact alternation_append halt
  · rw [if_neg h1]
    by_cases h0 : s.nextWptr = 0
    · have hhigh : ¬s.wptr.toNat < s.halfElems := by split at hwrap <;> omega
      rw [if_neg hhigh] at halt
      rw [if_pos h0, if_pos (by omega)]
      exact alternation_append halt
    · have hsame : s.wptr.toNat < s.halfElems ↔ s.nextWptr < s.halfElems := by split at hwrap <;> omega
      rw [if_neg h0, List.append_nil, halt]
      simp only [hsame]

/-- A command keeps the arbiter invariant: only `ACQ_INIT` and `ACQ_LOOP` touch its fields. -/
theorem CommandCore.keeps_arbiter {i : Instr} {s u : State} (h : CommandCore s i u) (hs : s.ArbiterInv) : u.ArbiterInv := by
  cases h with
  | @acqStart c n w hrej =>
    have hgeom := mt acqInitRejects_iff.mpr hrej
    simp only [not_or, not_lt] at hgeom
    obtain ⟨hw, hc, hcmax, hn, hfit⟩ := hgeom
    have hbytes : (s.acqStart c n w).elemBytes = if w = 0 then 16 / 8 else 32 / 8 := by
      have hw01 : w = 0 ∨ w = 1 := by
        have : w.toNat = 0 ∨ w.toNat = 1 := by omega
        exact this.imp BitVec.eq_of_toNat_eq BitVec.eq_of_toNat_eq
      rcases hw01 with rfl | rfl <;> rfl
    have hhalf : 0 < (s.acqStart c n w).halfElems := Nat.mul_pos (Nat.pos_of_ne_zero hc) (Nat.pos_of_ne_zero hn)
    refine ⟨hs.1, ?_, fun _ => rfl⟩
    rw [if_pos (show (s.acqStart c n w).armed = true from rfl)]
    refine ⟨Nat.pos_of_ne_zero hc, hcmax, Nat.pos_of_ne_zero hn, by rw [hbytes]; exact hfit, ?_, ?_⟩
    · exact Nat.mul_pos Nat.two_pos hhalf
    · exact congrArg some (if_pos hhalf).symm
  | deliver => exact ⟨hs.1, hs.2.1, id⟩
  | _ => exact hs

theorem stepKeeps_arbiter : StepKeeps State.ArbiterInv State.ArbiterInv where
  bookkeepingPre := fun s t h hs => by rw [h]; exact hs
  bookkeepingPost := fun s t h hs => by rw [h]; exact hs
  clearTgt := fun s hs => hs
  pass := fun s hs => hs
  ringStore := fun s lo bs hs => hs
  xbufStore := fun s lo bs hs => hs
  command := fun s i u h hs => h.keeps_arbiter hs
  micro := fun s u h hs => by cases h <;> exact hs
  produce := fun s harmed ⟨hv, harb, hlast⟩ => by
    rw [if_pos harmed] at harb
    obtain ⟨hwptr, hlt, -, halt⟩ := State.ArmedInv.produce hv harb
    obtain ⟨hC, hCmax, hS, hfit, -, -⟩ := harb
    obtain ⟨tape, n, hd⟩ := s.draw_eq
    unfold State.produceStep
    rw [hd]
    refine ⟨hv, ?_, hlast⟩
    rw [if_pos (show (s.withDraws tape n).armed = true from harmed)]
    refine ⟨hC, hCmax, hS, hfit, ?_, ?_⟩
    · exact hwptr.trans_lt hlt
    · exact halt.trans (congrArg some (by rw [State.nextReached]; simp only [hwptr]; rfl))
  complete := fun s e rest hcons ⟨hv, harb, hlast⟩ => by
    refine ⟨hv, ?_, fun hna => absurd hna e.active_ne_notAvailable⟩
    split at harb
    · rename_i harmed
      obtain ⟨hC, hCmax, hS, hfit, hw, halt⟩ := harb
      rw [hcons] at halt
      rw [if_pos harmed]
      exact ⟨hC, hCmax, hS, hfit, hw, by rw [e.expected_active]; exact (alternation_cons halt).2⟩
    · exact absurd (hcons.symm.trans harb.2.2.2.1) (List.cons_ne_nil e rest)

/-- Settles O48: `ACQ_INIT` records only geometries that fit, and PROD's two steps keep the completions alternating. -/
theorem stepKeepsTheArbiter : Obligations.StepKeepsTheArbiter := fun _ _ hs ht =>
  stepKeeps_arbiter.step hs (fun _ hat => by
    have hcfg := hat.1
    rw [← (State.tear_fields _).1] at hcfg
    exact ⟨hcfg, ⟨rfl, rfl, rfl, rfl, rfl⟩, fun _ => rfl⟩) ht

/-! ### Protection bits (R20, R24, R38) -/

theorem CommandCore.keeps_protection {i : Instr} {s u : State} (h : CommandCore s i u) (hs : s.ProtectionInv) :
    u.ProtectionInv := by
  have ⟨hv, hwp, hopt, htgt⟩ := hs
  cases h with
  | optBit hk => exact ⟨hv, hwp, setBit_toNat_lt hopt hk _, decide_eq_true hk⟩
  | launch => exact ⟨hv, hopt, hopt, htgt⟩
  | erase => exact ⟨hv, hwp, hopt, rfl⟩
  | program => exact ⟨hv, hwp, hopt, rfl⟩
  | _ => exact hs

theorem stepKeeps_protection : StepKeeps State.ProtectionInv State.ProtectionInv where
  bookkeepingPre := fun s t h hs => by rw [h]; exact hs
  bookkeepingPost := fun s t h hs => by rw [h]; exact hs
  clearTgt := fun s ⟨hv, hwp, hopt, _⟩ => ⟨hv, hwp, hopt, rfl⟩
  pass := fun s hs => hs
  ringStore := fun s lo bs hs => hs
  xbufStore := fun s lo bs hs => hs
  command := fun s i u h hs => h.keeps_protection hs
  micro := fun s u h hs => by
    have ⟨hv, hwp, hopt, htgt⟩ := hs
    have hotp := (Params.valid_bounds hv).2.2.1
    cases h with
    | same => exact hs
    | erase => exact ⟨hv, hwp, hopt, rfl⟩
    | program => exact ⟨hv, hwp, hopt, rfl⟩
    | optBit => exact ⟨hv, hwp, setBit_toNat_lt hopt hotp _, decide_eq_true hotp⟩
    | launch => exact ⟨hv, hopt, hopt, htgt⟩
  produce := fun s _ hs => by
    obtain ⟨tape, n, hd⟩ := s.draw_eq
    unfold State.produceStep
    rw [hd]
    exact hs
  complete := fun s _ _ _ hs => hs

/-- Settles O49: only bits of sectors are written, loaded, or torn. -/
theorem stepKeepsProtectionBits : Obligations.StepKeepsProtectionBits := fun _ _ hs ht =>
  stepKeeps_protection.step hs (fun _ ⟨hv, _, hopt, htgt⟩ => by
    generalize State.atTurn _ = u at hv hopt htgt ⊢
    have hcfg := u.tear_fields.1
    have htear : u.tear.nvOptWp.toNat < 2 ^ u.cfg.nvSectors := by
      rcases u.tear_cases with ⟨t, n, h⟩ | ⟨-, lo, k, bs, t, n, -, -, h⟩ | ⟨-, k, b, t, n, hk, h⟩ <;> rw [h]
      · exact hopt
      · exact hopt
      · rw [hk] at htgt
        exact setBit_toNat_lt hopt (of_decide_eq_true htgt) b
    rw [← hcfg] at hv htear
    exact ⟨hv, htear, htear, rfl⟩) ht

/-! ### Units (R25, R33, R35, R36, R128) -/

/-- Storing a slot of form keeps every slot in form. -/
theorem forall_set_of {α : Type} {P : α → Prop} {v : Vector α 16} {j : Slot} {x : α} (h : ∀ k : Fin 16, P v[k])
    (hx : P (v[j.toNat]'j.isLt) → P x) : ∀ k : Fin 16, P (v.set j.toNat x j.isLt)[k] := by
  intro k
  by_cases hjk : j.toNat = k.val
  · rw [Fin.getElem_fin, show (v.set j.toNat x j.isLt)[k.val] = x by simp [← hjk]]
    exact hx (h ⟨j.toNat, j.isLt⟩)
  · rw [Fin.getElem_fin, Vector.getElem_set_ne _ _ hjk]
    exact h k

theorem CommandCore.keeps_units {i : Instr} {s u : State} (h : CommandCore s i u) (hs : s.UnitInv) : u.UnitInv := by
  have ⟨hv, hfft, hhann, hgz, hcb, hma⟩ := hs
  cases h with
  | hannTable _ hmax => exact ⟨hv, hfft, hmax, hgz, hcb, hma⟩
  | circBuf hok => exact ⟨hv, hfft, hhann, hgz, forall_set_of (P := fun b : CircBuf => b.Ok s.cfg.cbMaxL) hcb hok, hma⟩
  | movAvg hok => exact ⟨hv, hfft, hhann, hgz, hcb, forall_set_of (P := fun m : MovAvg => m.Ok s.cfg.maMaxL) hma hok⟩
  | goertzel hcnt => exact ⟨hv, hfft, hhann, hcnt hgz, hcb, hma⟩
  | fftClear _ hlen => exact ⟨hv, .inr hlen, hhann, hgz, hcb, hma⟩
  | _ => exact hs

theorem stepKeeps_units : StepKeeps State.UnitInv State.UnitInv where
  bookkeepingPre := fun s t h hs => by rw [h]; exact hs
  bookkeepingPost := fun s t h hs => by rw [h]; exact hs
  clearTgt := fun s hs => hs
  pass := fun s hs => hs
  ringStore := fun s lo bs hs => hs
  xbufStore := fun s lo bs hs => hs
  command := fun s i u h hs => h.keeps_units hs
  micro := fun s u h hs => by cases h <;> exact hs
  produce := fun s _ hs => by
    obtain ⟨tape, n, hd⟩ := s.draw_eq
    unfold State.produceStep
    rw [hd]
    exact hs
  complete := fun s _ _ _ hs => hs

/-- A slot of a freshly powered block is in form (R41). -/
theorem CircBuf.reset_ok (cap : Nat) : (CircBuf.reset cap).Ok cap := ⟨List.length_replicate, Nat.zero_le _, .inl rfl⟩

/-- The units right after power-up are in form (R41). -/
theorem State.powerUp_units {cfg : Params} (hv : cfg.valid = true) (nv : Memory) (optWp : Word) (tape : List Nat) (n : Nat)
    (l : List Turn) (k : Nat) (prog : List HostLine) : (State.powerUp cfg nv optWp tape n l k prog).UnitInv := by
  refine ⟨hv, .inl rfl, Nat.zero_le _, rfl, fun j => ?_, fun j => ?_⟩
  · rw [show (State.powerUp cfg nv optWp tape n l k prog).cb[j] = .reset cfg.cbMaxL from Vector.getElem_replicate _]
    exact CircBuf.reset_ok _
  · rw [show (State.powerUp cfg nv optWp tape n l k prog).ma[j] = .reset cfg.maMaxL from Vector.getElem_replicate _]
    exact ⟨CircBuf.reset_ok _, Nat.zero_ne_one⟩

/-- Settles O50: the inits check their lengths, pushes and feeds count modulo theirs. -/
theorem stepKeepsTheUnits : Obligations.StepKeepsTheUnits := fun _ _ hs ht =>
  stepKeeps_units.step hs (fun _ hat => State.powerUp_units (by rw [(State.tear_fields _).1]; exact hat.1) ..) ht

/-! ### Reset (R41, R172) -/

theorem Params.testPrograms_valid : Params.testPrograms.valid = true := by decide

/-- Clearing the bits of sectors that do not exist leaves a word of sector bits (R20). -/
theorem sectorBits_toNat_lt (cfg : Params) (h : cfg.nvSectors ≤ 32) (v : Word) :
    (sectorBits cfg v).toNat < 2 ^ cfg.nvSectors := by
  have hpow : 2 ^ cfg.nvSectors ≤ 2 ^ 32 := Nat.pow_le_pow_right (by decide) h
  have hpos : 0 < 2 ^ cfg.nvSectors := Nat.two_pow_pos _
  rw [sectorBits, BitVec.toNat_and, BitVec.toNat_ofNat, Nat.mod_eq_of_lt (by omega)]
  exact Nat.lt_of_le_of_lt Nat.and_le_right (by omega)

/-- Settles O46: the empty memories are canonical, nothing is armed or in progress, and the options are sector bits. -/
theorem resetMeetsTheInvariants : Obligations.ResetMeetsTheInvariants := by
  have hbits := sectorBits_toNat_lt .testPrograms (by decide) Config.optWpPowerOn
  exact ⟨⟨Memory.wf_nil _, Memory.wf_nil _, Memory.wf_nil _, Memory.wf_nil _, Memory.wf_nil _⟩,
    ⟨Params.testPrograms_valid, ⟨rfl, rfl, rfl, rfl, rfl⟩, fun _ => rfl⟩,
    ⟨Params.testPrograms_valid, hbits, hbits, rfl⟩,
    State.powerUp_units Params.testPrograms_valid .., rfl⟩

/-- Settles O45: each reset value is the one `State.powerUp` gives the field. -/
theorem resetValues : Obligations.ResetValues := by
  refine ⟨rfl, rfl, rfl, rfl, rfl, rfl, rfl, rfl, rfl, rfl, fun n => ?_, fun n => ?_, rfl, rfl, rfl, rfl, rfl, rfl, rfl,
    fun a => ⟨rfl, rfl, rfl, rfl⟩, rfl, rfl, rfl, rfl, fun j => ?_, rfl, rfl⟩
  · rw [show State.reset.args[n] = .reset from Vector.getElem_replicate _]; rfl
  · rw [show State.reset.res[n] = .reset from Vector.getElem_replicate _]; rfl
  · rw [show State.reset.bqSlot j = .reset from Vector.getElem_replicate _,
      show State.reset.emaSlot j = .reset from Vector.getElem_replicate _,
      show State.reset.notchSlot j = .reset from Vector.getElem_replicate _,
      show State.reset.cbSlot j = .reset _ from Vector.getElem_replicate _,
      show State.reset.maSlot j = .reset _ from Vector.getElem_replicate _]
    exact ⟨rfl, rfl, rfl, rfl, rfl⟩

end Sys2Proof.Machine
end


section
/-! Proofs of the NV safety statements: sectors (R8, R139), write protection (R24, R50), power loss (R158, R173). -/

namespace Sys2Proof.Machine

-- Many short elaborations at once would start a thread each.
set_option Elab.async false

/-! ### Sectors (R8, R139) -/

/-- A byte between the base and the end of a sector is one of that sector. -/
theorem sectorFrom_eq {zs : List Nat} {k a : Nat} (hlo : (zs.take k).sum ≤ a)
    (hhi : a < (zs.take k).sum + zs.getD k 0) : sectorFrom zs a = k := by
  induction zs generalizing k a with
  | nil => simp at hhi
  | cons z zs ih =>
    cases k with
    | zero =>
      simp only [List.take_zero, List.sum_nil, List.getD_cons_zero, Nat.zero_add] at hhi
      exact if_pos hhi
    | succ k =>
      simp only [List.take_succ_cons, List.sum_cons, List.getD_cons_succ] at hlo hhi
      rw [sectorFrom, if_neg (by omega), ih (k := k) (by omega) (by omega), Nat.add_comm]

/-- The sector a byte lies in holds it. -/
theorem sectorFrom_spec {zs : List Nat} {a : Nat} (h : sectorFrom zs a < zs.length) :
    (zs.take (sectorFrom zs a)).sum ≤ a ∧ a < (zs.take (sectorFrom zs a)).sum + zs.getD (sectorFrom zs a) 0 := by
  induction zs generalizing a with
  | nil => exact absurd h (Nat.not_lt_zero _)
  | cons z zs ih =>
    by_cases haz : a < z
    · simp [sectorFrom, haz]
    · rw [sectorFrom, if_neg haz] at h ⊢
      have hz := ih (a := a - z) (by simp only [List.length_cons] at h; omega)
      rw [Nat.add_comm 1, List.take_succ_cons, List.sum_cons, List.getD_cons_succ]
      omega

/-- Every address below the sum of the sizes lies in a sector. -/
theorem sectorFrom_lt {zs : List Nat} {a : Nat} (h : a < zs.sum) : sectorFrom zs a < zs.length := by
  induction zs generalizing a with
  | nil => simp at h
  | cons z zs ih =>
    rw [sectorFrom]
    split
    · exact Nat.succ_pos _
    · have := ih (a := a - z) (by rw [List.sum_cons] at h; omega)
      rw [List.length_cons]; omega

/-- The bytes of an aligned word lie in one sector, for sizes that are multiples of 4. -/
theorem sectorFrom_word {zs : List Nat} {a j : Nat} (hz : ∀ z ∈ zs, z % 4 = 0) (ha : a % 4 = 0) (hj : j < 4) :
    sectorFrom zs (a + j) = sectorFrom zs a := by
  induction zs generalizing a with
  | nil => rfl
  | cons z zs ih =>
    have hz0 := hz z List.mem_cons_self
    rw [sectorFrom, sectorFrom]
    by_cases haz : a < z
    · rw [if_pos haz, if_pos (by omega)]
    · rw [if_neg haz, if_neg (by omega), show a + j - z = a - z + j by omega,
        ih (fun y hy => hz y (List.mem_cons_of_mem z hy)) (by omega)]

theorem State.sectorOf_of_inSector {s : State} {k a : Nat} (h : s.cfg.InSector k a) : s.sectorOf a = k :=
  sectorFrom_eq h.1 h.2

theorem State.inSector_sectorOf {s : State} {a : Nat} (h : s.sectorOf a < s.cfg.nvSectors) :
    s.cfg.InSector (s.sectorOf a) a := sectorFrom_spec h

/-- The end of a sector is at most the end of NV. -/
theorem Params.sector_end_le (p : Params) (k : Nat) : p.sb k + p.sz k ≤ p.nvBytes := by
  unfold Params.sb Params.sz Params.nvBytes
  generalize p.sectorSizes = zs
  induction zs generalizing k with
  | nil => simp
  | cons z zs ih =>
    cases k with
    | zero => simp
    | succ k =>
      have := ih k
      simp only [List.take_succ_cons, List.sum_cons, List.getD_cons_succ]
      omega

/-! ### Write protection (R24, R50, R140) -/

/-- Storing bytes that all lie outside a sector leaves the sector's bytes. -/
theorem State.nvByte_setNv_of_sector {s : State} {k a lo : Nat} {bs : List Byte} (ha : s.cfg.InSector k a)
    (h : ∀ b, lo ≤ b → b < lo + bs.length → s.sectorOf b ≠ k) : (s.setNv lo bs).nvByte a = s.nvByte a := by
  apply State.nvByte_setNv_outside
  by_contra hin
  exact h a (by omega) (by omega) (State.sectorOf_of_inSector ha)

/-- An erase of another sector leaves the sector's bytes. -/
theorem State.nvByte_erase_of_protected {s : State} {k k' a : Nat} {bs : List Byte} (ha : s.cfg.InSector k a)
    (hwp : s.wpBit k = true) (hwp' : s.wpBit k' = false) (hbs : bs.length = s.cfg.sz k') :
    (s.setNv (s.cfg.sb k') bs).nvByte a = s.nvByte a := by
  refine State.nvByte_setNv_of_sector ha fun b hlo hhi hb => ?_
  have hb' : s.sectorOf b = k' := State.sectorOf_of_inSector ⟨hlo, hbs ▸ hhi⟩
  rw [← hb, hb', hwp'] at hwp
  cases hwp

/-- A program whose bytes all lie in the sector of its address leaves the bytes of a protected sector. -/
theorem State.nvByte_program_of_protected {s : State} {k a lo : Nat} {bs : List Byte} (ha : s.cfg.InSector k a)
    (hwp : s.wpBit k = true) (hwp' : s.wpBit (s.sectorOf lo) = false)
    (h : ∀ b, lo ≤ b → b < lo + bs.length → s.sectorOf b = s.sectorOf lo) :
    (s.setNv lo bs).nvByte a = s.nvByte a := by
  refine State.nvByte_setNv_of_sector ha fun b hlo hhi hb => ?_
  rw [← hb, h b hlo hhi, hwp'] at hwp
  cases hwp

/-- A byte of a protected sector of a block with legal parameters, before a step. -/
def State.ProtectedByte (k a : Nat) (v : Byte) (s : State) : Prop :=
  s.cfg.valid = true ∧ s.wpBit k = true ∧ s.cfg.InSector k a ∧ s.nvByte a = v

theorem CommandCore.keeps_protectedByte {k a : Nat} {v : Byte} {i : Instr} {s u : State} (h : CommandCore s i u)
    (hs : s.ProtectedByte k a v) : u.nvByte a = v := by
  obtain ⟨hv, hwp, ha, rfl⟩ := hs
  cases h with
  | erase _ _ hwp' hbs => exact State.nvByte_erase_of_protected (s := s.setTgt _) ha hwp hwp' hbs
  | @program _ lo bs _ hi hwp' _ =>
    refine State.nvByte_program_of_protected (s := s.setTgt _) ha hwp hwp' fun b hlo hhi => ?_
    rcases hi with ⟨-, hlen⟩ | ⟨-, hlen, halign⟩
    · rw [show b = lo.toNat by omega]
    · rw [show b = lo.toNat + (b - lo.toNat) by omega]
      exact sectorFrom_word (Params.valid_bounds hv).2.2.2.2 halign (by omega)
  | _ => rfl

theorem NvEffect.keeps_protectedByte {k a : Nat} {v : Byte} {s u : State} (h : NvEffect s u)
    (hs : s.ProtectedByte k a v) : u.nvByte a = v := by
  obtain ⟨hv, hwp, ha, rfl⟩ := hs
  cases h with
  | erase hwp' hbs => exact State.nvByte_erase_of_protected (s := s.setTgt _) ha hwp hwp' hbs
  | @program lo bs hwp' hspan =>
    refine State.nvByte_program_of_protected (s := s.setTgt _) ha hwp hwp' fun b hlo hhi => ?_
    rcases hspan with hlen | ⟨w, hw, hat, hlen⟩
    · rw [show b = lo by omega]
    · have hsz := (Params.valid_bounds hv).2.2.2.1
      have hotp : ∀ x, lo ≤ x → x < lo + 4 → s.sectorOf x = s.cfg.otpSector := fun x hx1 hx2 =>
        State.sectorOf_of_inSector ⟨by omega, by omega⟩
      exact (hotp b hlo (by omega)).trans (hotp lo (Nat.le_refl _) (by omega)).symm
  | _ => rfl

theorem stepKeeps_protectedByte (k a : Nat) (v : Byte) :
    StepKeeps (State.ProtectedByte k a v) (fun t => t.nvByte a = v) where
  bookkeepingPre := fun s t h hs => by rw [h]; exact hs
  bookkeepingPost := fun s t h hs => by rw [h]; exact hs
  clearTgt := fun s hs => hs
  pass := fun s hs => hs.2.2.2
  ringStore := fun s lo bs hs => hs.2.2.2
  xbufStore := fun s lo bs hs => hs.2.2.2
  command := fun s i u h hs => h.keeps_protectedByte hs
  micro := fun s u h hs => h.keeps_protectedByte hs
  produce := fun s _ ⟨_, _, _, hv⟩ => by
    obtain ⟨tape, n, hd⟩ := s.draw_eq
    unfold State.produceStep
    rw [hd]
    exact hv
  complete := fun s _ _ _ hs => hs.2.2.2

/-- Settles O44: every erase and every program checks the protection of the one sector its bytes lie in. -/
theorem protectedSectorKeepsItsBytes : Obligations.ProtectedSectorKeepsItsBytes :=
  fun s _ k a hv _ hwp ha hturn ht =>
    (stepKeeps_protectedByte k a (s.nvByte a)).step ⟨hv, hwp, ha, rfl⟩ (fun h => absurd h hturn) ht

/-- The next draw is read off the tape and the counter. -/
theorem State.draw_fst_congr {s t : State} (ht : t.drawTape = s.drawTape) (hc : t.drawCount = s.drawCount) :
    t.draw.1 = s.draw.1 := by
  rw [State.draw, State.draw, ht, hc]
  cases s.drawTape <;> rfl

theorem State.drawBool_fst_congr {s t : State} (ht : t.drawTape = s.drawTape) (hc : t.drawCount = s.drawCount) :
    t.drawBool.1 = s.drawBool.1 := by
  rw [State.drawBool, State.drawBool, State.draw_fst_congr ht hc]

/-! ### Power loss (R41, R158, R172, R173) -/

/-- Whatever the schedule says, a power loss is the reset after the tear. -/
theorem step_of_powerLoss {s : State} {l : List Turn} (h : s.schedule = .powerLoss :: l) :
    step s = .next ({ s with schedule := l } : State).powerLossStep := by
  rw [step, State.takeTurn_cons h]
  rfl

/-- A tear changes no NV byte outside the target range. -/
theorem State.tear_nvByte {s : State} {a : Nat} (h : ∀ lo n, s.tgt = .bytes lo n → ¬(lo ≤ a ∧ a < lo + n)) :
    s.tear.nvByte a = s.nvByte a := by
  rcases s.tear_cases with ⟨t, n, ht⟩ | ⟨-, lo, k, bs, t, n, htgt, hbs, ht⟩ | ⟨-, k, b, t, n, -, ht⟩ <;> rw [ht]
  · rfl
  · have := h lo k htgt
    exact State.nvByte_setNv_outside (s := s.withDraws t n) (by omega)
  · rfl

/-- A tear changes no option bit but the target bit. -/
theorem State.tear_optBit {s : State} {k : Nat} (h : s.tgt ≠ .optBit k) :
    s.tear.nvOptWp.getLsbD k = s.nvOptWp.getLsbD k := by
  rcases s.tear_cases with ⟨t, n, ht⟩ | ⟨-, lo, j, bs, t, n, -, -, ht⟩ | ⟨-, j, b, t, n, htgt, ht⟩ <;> rw [ht]
  · rfl
  · rfl
  · have hne : k ≠ j := fun he => h (he ▸ htgt)
    exact (setBit_getLsbD _ _ _ _).trans (if_neg fun hc => hne hc.1)

/-- Without a tear only a draw is taken. -/
theorem State.tear_of_not_torn {s : State} (h : s.drawBool.1 = false) :
    s.tear.nvOptWp = s.nvOptWp ∧ ∀ a, s.tear.nvByte a = s.nvByte a := by
  rcases s.tear_cases with ⟨t, n, ht⟩ | ⟨htorn, -⟩ | ⟨htorn, -⟩
  · rw [ht]; exact ⟨rfl, fun _ => rfl⟩
  · rw [h] at htorn; cases htorn
  · rw [h] at htorn; cases htorn

/-- NV bytes survive the reset of a power loss. -/
theorem State.nvByte_powerLossStep (s : State) (a : Nat) : s.powerLossStep.nvByte a = s.tear.nvByte a := rfl

/-- Settles O43: the reset state holds what the tear leaves, and the tear reaches no further than its target. -/
theorem powerLossKeepsOnlyNv : Obligations.PowerLossKeepsOnlyNv := by
  intro s l hl
  let u : State := { s with schedule := l }
  obtain ⟨hcfg, hsched, hturn, hprog⟩ := u.tear_fields
  refine ⟨u.powerLossStep, step_of_powerLoss hl, ?_, rfl, fun a ha => ?_, fun k hk => ?_, fun hd => ?_⟩
  · change State.powerUp u.tear.cfg u.tear.nv u.tear.nvOptWp u.tear.drawTape u.tear.drawCount u.tear.schedule
      u.tear.turnCount u.tear.hostProgram = _
    rw [hcfg, hsched, hturn, hprog]
    rfl
  · exact State.tear_nvByte (s := u) ha
  · exact State.tear_optBit (s := u) hk
  · exact State.tear_of_not_torn (s := u) ((State.drawBool_fst_congr (s := s) (t := u) rfl rfl).trans hd)

end Sys2Proof.Machine
end


section
/-! Proofs of the HOST access statements: the register map (R20–R26), the windows (R43–R48), and the commands HOST starts
(R21, R38, R68). -/

namespace Sys2Proof.Machine

-- Many short elaborations at once would start a thread each.
set_option Elab.async false

/-! ### Little-endian numbers (R44) -/

theorem leNat_lt (bs : List Byte) : leNat bs < 256 ^ bs.length := by
  induction bs with
  | nil => exact Nat.one_pos
  | cons b bs ih =>
    have hb := b.isLt
    rw [leNat, List.length_cons, Nat.pow_succ]
    omega

/-- The bytes of a little-endian number. -/
theorem leNat_div_mod {bs : List Byte} {k : Nat} (h : k < bs.length) : leNat bs / 256 ^ k % 256 = bs[k].toNat := by
  induction bs generalizing k with
  | nil => exact absurd h (Nat.not_lt_zero _)
  | cons b bs ih =>
    have hb := b.isLt
    cases k with
    | zero => rw [leNat, Nat.pow_zero, Nat.div_one, List.getElem_cons_zero]; omega
    | succ k =>
      rw [leNat, Nat.pow_succ, Nat.mul_comm (256 ^ k), ← Nat.div_div_eq_div_mul, show (b.toNat + 256 * leNat bs) / 256 = leNat bs by omega,
        List.getElem_cons_succ]
      exact ih (by simpa using h)

/-- A byte of a word read from at most four bytes. -/
theorem extractLsb'_leNat {bs : List Byte} {k : Nat} (hlen : bs.length ≤ 4) (h : k < bs.length) :
    (BitVec.ofNat 32 (leNat bs)).extractLsb' (8 * k) 8 = bs[k] := by
  have hlt : leNat bs < 2 ^ 32 :=
    Nat.lt_of_lt_of_le (leNat_lt bs) (Nat.pow_le_pow_right (n := 256) (by decide) hlen)
  apply BitVec.eq_of_toNat_eq
  rw [BitVec.extractLsb'_toNat, BitVec.toNat_ofNat, Nat.mod_eq_of_lt hlt, Nat.shiftRight_eq_div_pow, Nat.pow_mul]
  exact leNat_div_mod h

/-- Bytes just stored are read back. -/
theorem Memory.readBytes_setRange_same (blank : Nat → Option Byte) (m : Memory) (lo : Nat) (bs : List Byte) :
    Memory.readBytes blank (m.setRange blank lo bs) lo bs.length = some bs := by
  refine Memory.readBytes_eq_some.mpr ⟨rfl, fun i hi => ?_⟩
  rw [Memory.read_setRange, if_pos (by omega), Nat.add_sub_cancel_left]

/-! ### Where accesses go (R20, R43, R46, R48) -/

/-- A word access at an offset of the register map. -/
abbrev RegisterOffset (off : Int) (r : Reg) : Prop :=
  0 ≤ off ∧ off < 0x100 ∧ off.toNat % 4 = 0 ∧ registerAt off.toNat = some r

theorem State.locate_register {s : State} {off : Int} {r : Reg} (h : RegisterOffset off r) :
    s.locate off .w4 = .ok (.reg r) := by
  obtain ⟨h0, h1, h4, hr⟩ := h
  have hround : off.toNat / 4 * 4 = off.toNat := by omega
  rw [State.locate, if_neg (by omega), if_pos h1, hround, hr]
  simp [h4]

theorem State.hostWrite_register {s : State} {off : Int} {r : Reg} (h : RegisterOffset off r) (v : Word) :
    s.hostWrite off .w4 v = s.writeReg r v := by
  rw [State.hostWrite, State.locate_register h]

theorem State.hostRead_register {s : State} {off : Int} {r : Reg} {v : Word} (h : RegisterOffset off r)
    (hv : s.readReg r = some v) : s.hostRead off .w4 = .ok v := by
  rw [State.hostRead, State.locate_register h]
  simp only [State.readPlace, hv]

/-- An aligned access inside the extent of a window. -/
structure WindowOffset (s : State) (off : Int) (width : Width) (win : Window) (rel : Nat) : Prop where
  beyond : 0x100 ≤ off
  window : windowAt off.toNat = some (win, rel)
  inside : rel + width.bytes ≤ s.extent win
  aligned : rel % width.bytes = 0

theorem State.locate_window {s : State} {off : Int} {width : Width} {win : Window} {rel : Nat}
    (h : WindowOffset s off width win rel) : s.locate off width = .ok (.win win rel) := by
  have hb := h.beyond
  have hi := h.inside
  rw [State.locate, if_neg (by omega), if_neg (by omega), h.window]
  simp [h.aligned, Nat.not_lt.mpr hi]

theorem State.hostWrite_window {s : State} {off : Int} {width : Width} {win : Window} {rel : Nat}
    (h : WindowOffset s off width win rel) (v : Word) :
    s.hostWrite off width v = .next (s.writeWindow win rel (leBytes width.bytes v.toNat)) := by
  rw [State.hostWrite, State.locate_window h]

theorem State.hostRead_window {s : State} {off : Int} {width : Width} {win : Window} {rel : Nat}
    (h : WindowOffset s off width win rel) :
    s.hostRead off width = s.readPlace off width (.win win rel) := by
  rw [State.hostRead, State.locate_window h]

theorem Width.bytes_le (w : Width) : 1 ≤ w.bytes ∧ w.bytes ≤ 4 := by cases w <;> decide

/-- A read of a window gives the bytes behind it, lowest first. -/
theorem State.hostRead_window_some {s : State} {off : Int} {width : Width} {win : Window} {rel : Nat} {bs : List Byte}
    (h : WindowOffset s off width win rel)
    (hbs : Memory.readBytes unwritten (s.windowMem win) rel width.bytes = some bs) :
    s.hostRead off width = .ok (BitVec.ofNat 32 (leNat bs)) := by
  rw [State.hostRead_window h]
  simp only [State.readPlace, hbs]

/-- A read of a window faults if one of its bytes is unwritten (R27, R161). -/
theorem State.hostRead_window_none {s : State} {off : Int} {width : Width} {win : Window} {rel : Nat}
    (h : WindowOffset s off width win rel)
    (hbs : Memory.readBytes unwritten (s.windowMem win) rel width.bytes = none) :
    s.hostRead off width = .error (.unwrittenData (.host off)) := by
  rw [State.hostRead_window h]
  simp only [State.readPlace, hbs]

/-! ### Commands HOST starts (R16, R21, R68) -/

theorem State.hostWrite_cmd (s : State) (v : Word) : s.hostWrite 0 .w4 v = s.command v :=
  State.hostWrite_register (r := .cmd) (by decide) v

theorem State.command_of_decode {s : State} {v : Word} {i : Instr} (h : decode s.cfg v = some i) :
    s.command v = exec i { s with cmd := v } := by
  rw [State.command, h]

/-- Settles O5: a `CMD` write is `State.command`, and that has the two branches of `decode`. -/
theorem commandWriteRunsTheWord : Obligations.CommandWriteRunsTheWord := by
  refine fun s v => ⟨fun h => ?_, fun i h => (s.hostWrite_cmd v).trans (State.command_of_decode h)⟩
  rw [State.hostWrite_cmd, State.command, h]
  rfl

/-- A scheduled turn of an enabled HOST is the access of its line. -/
theorem step_of_hostLine {s : State} {l : List Turn} {line : HostLine} (hl : s.schedule = .host :: l)
    (hp : s.progress = none) (hline : s.hostLine? = some line) :
    step s = ({ s with schedule := l, tgt := .none } : State).hostStep line := by
  have hen : ({ s with schedule := l } : State).enabled .host = true := by
    simp only [State.enabled, hp, Option.isNone_none, Bool.true_and]
    exact Option.isSome_iff_exists.mpr ⟨line, hline⟩
  have hline' : ({ s with schedule := l } : State).hostLine? = some line := hline
  rw [step, State.takeTurn_cons hl]
  simp only [State.runTurn_of_enabled hen, State.agentStep, hline']
  rfl

/-- Settles O6: HOST's turn is its line's access, and that access is the `CMD` write of the word. -/
theorem stepRunsTheDecodedCommand : Obligations.StepRunsTheDecodedCommand := by
  intro s l v i hl hp hline hdec
  rw [step_of_hostLine hl hp hline, State.hostStep]
  have hoff : ((s.cfg.blockBase : Int) - s.cfg.blockBase) = 0 := Int.sub_self _
  change State.hostWrite _ ((s.cfg.blockBase : Int) - s.cfg.blockBase) .w4 v = _
  rw [hoff, State.hostWrite_cmd]
  exact State.command_of_decode hdec

/-! ### The register map (R17, R20–R26) -/

/-- The registers HOST cannot write (R20). -/
def Reg.readOnly : Reg → Bool
  | .rc | .acqC | .acqS | .acqCfg | .acqState | .acqWptr | .res _ | .nvState | .nvWp | .nvOptWp | .fftLen
  | .hannLen | .gzN | .gzCnt => true
  | _ => false

theorem State.writeReg_readOnly {s : State} {r : Reg} (h : r.readOnly = true) (v : Word) : s.writeReg r v = .next s := by
  cases r with
  | cmd | arg | crc4Poly | crc4Init | crc8Poly | crc8Init => cases h
  | _ => rfl

theorem argOffset_register : ∀ n : Fin 8, RegisterOffset (0x020 + 4 * n.val) (.arg n) := by decide

theorem resOffset_register : ∀ n : Fin 4, RegisterOffset (0x040 + 4 * n.val) (.res n) := by decide

/-- The offsets of the read-only registers. -/
theorem readOnly_offsets : ∀ off ∈ [(0x004 : Int), 0x008, 0x00C, 0x010, 0x014, 0x018, 0x040, 0x044, 0x048, 0x04C, 0x060,
    0x064, 0x068, 0x06C, 0x070, 0x074, 0x078],
    ∃ r : Reg, RegisterOffset off r ∧ r.readOnly = true := by
  have hall : ∀ off ∈ [(0x004 : Int), 0x008, 0x00C, 0x010, 0x014, 0x018, 0x040, 0x044, 0x048, 0x04C, 0x060, 0x064, 0x068,
      0x06C, 0x070, 0x074, 0x078], 0 ≤ off ∧ off < 0x100 ∧ off.toNat % 4 = 0 ∧
      (registerAt off.toNat).any Reg.readOnly = true := by decide
  intro off hoff
  obtain ⟨h0, h1, h4, hany⟩ := hall off hoff
  cases hr : registerAt off.toNat with
  | none => rw [hr] at hany; cases hany
  | some r => exact ⟨r, ⟨h0, h1, h4, hr⟩, by rwa [hr] at hany⟩

/-- A word with `a` in bit 0 and `b` in bit 1. -/
theorem twoBits (a b : Bool) :
    (bitWord a ||| bitWord b <<< 1).getLsbD 0 = a ∧ (bitWord a ||| bitWord b <<< 1).getLsbD 1 = b ∧
      (bitWord a ||| bitWord b <<< 1).toNat < 4 := by
  cases a <;> cases b <;> decide

/-- `ACTIVE` in bits 1:0 and `LAST` in bits 3:2 (R22). -/
theorem acqState_fields (a l : ActiveBuffer) :
    ((a.bits ||| l.bits <<< 2).extractLsb' 0 2).toNat = a.bits.toNat ∧
      ((a.bits ||| l.bits <<< 2).extractLsb' 2 2).toNat = l.bits.toNat ∧ (a.bits ||| l.bits <<< 2).toNat < 16 := by
  cases a <;> cases l <;> decide

theorem ActiveBuffer.bits_toNat (a : ActiveBuffer) :
    a.bits.toNat = match a with
      | .notAvailable => 0
      | .first => 1
      | .second => 2 := by
  cases a <;> rfl

/-- The low bits of a word, as the CRC registers keep them (R23). -/
theorem setWidth_eq_extractLsb' (v : Word) (n : Nat) : v.setWidth n = v.extractLsb' 0 n := by
  apply BitVec.eq_of_getLsbD_eq
  intro i hi
  simp [hi]

/-- Settles O53: each offset is a register of the map, and the register's read and write are its own. -/
theorem registerMapReadsAndWrites : Obligations.RegisterMapReadsAndWrites := by
  intro s v
  refine ⟨fun off hoff => ?_, fun n => ⟨State.hostWrite_register (argOffset_register n) v,
      State.hostRead_register (argOffset_register n) rfl, fun hw i hwf hn => ?_⟩, ?_, ?_, ?_, ?_,
    State.hostRead_register (r := .cmd) (by decide) rfl, State.hostRead_register (r := .rc) (by decide) rfl,
    State.hostRead_register (r := .acqC) (by decide) rfl, State.hostRead_register (r := .acqS) (by decide) rfl,
    State.hostRead_register (r := .acqWptr) (by decide) rfl,
    ⟨_, State.hostRead_register (r := .acqCfg) (by decide) rfl, twoBits _ _⟩,
    ⟨_, State.hostRead_register (r := .acqState) (by decide) rfl, ?_⟩, fun n => ?_,
    State.hostRead_register (r := .crc4Poly) (by decide) rfl, State.hostRead_register (r := .crc4Init) (by decide) rfl,
    State.hostRead_register (r := .crc8Poly) (by decide) rfl, State.hostRead_register (r := .crc8Init) (by decide) rfl,
    ⟨_, State.hostRead_register (r := .nvState) (by decide) rfl, twoBits _ _⟩,
    State.hostRead_register (r := .nvWp) (by decide) rfl, State.hostRead_register (r := .nvOptWp) (by decide) rfl,
    State.hostRead_register (r := .fftLen) (by decide) rfl, State.hostRead_register (r := .hannLen) (by decide) rfl,
    State.hostRead_register (r := .gzN) (by decide) rfl, State.hostRead_register (r := .gzCnt) (by decide) rfl⟩
  · obtain ⟨r, hr, hro⟩ := readOnly_offsets off hoff
    rw [State.hostWrite_register hr, State.writeReg_readOnly hro]
  · rw [State.hostWrite_cmd, State.command_of_decode (decode_eq_some.mpr ⟨decodeWord_encode i, hwf⟩)]
    exact exec_faultsUnless i { s with cmd := encode i } ⟨n, hn, hw⟩
  · rw [State.hostWrite_register (r := .crc4Poly) (by decide), ← setWidth_eq_extractLsb']; rfl
  · rw [State.hostWrite_register (r := .crc4Init) (by decide), ← setWidth_eq_extractLsb']; rfl
  · rw [State.hostWrite_register (r := .crc8Poly) (by decide), ← setWidth_eq_extractLsb']; rfl
  · rw [State.hostWrite_register (r := .crc8Init) (by decide), ← setWidth_eq_extractLsb']; rfl
  · obtain ⟨ha, hl, hlt⟩ := acqState_fields s.active s.last
    exact ⟨ha.trans s.active.bits_toNat, hl.trans s.last.bits_toNat, hlt⟩
  · rw [State.hostRead, State.locate_register (resOffset_register n)]
    simp only [State.readPlace, State.readReg]
    cases s.res[n].written <;> rfl

/-! ### Accesses that fault (R43, R46–R48) -/

theorem State.fault_of_locate {s : State} {off : Int} {w : Width} {f : Fault} (h : s.locate off w = .error f) (v : Word) :
    s.hostWrite off w v = .fault f ∧ s.hostRead off w = .error f := by
  rw [State.hostWrite, State.hostRead, h]
  exact ⟨rfl, rfl⟩

/-- Registers lie at multiples of 4 (R20). -/
theorem registerAt_aligned {n : Nat} (h : (registerAt n).isSome = true) : n % 4 = 0 := by
  unfold registerAt at h
  split at h <;> simp at h ⊢

/-- Settles O54: each alternative is one branch of `State.locate`. -/
theorem badAccessesFault : Obligations.BadAccessesFault := by
  intro s off w v f h
  refine State.fault_of_locate ?_ v
  rcases h with ⟨hneg, rfl⟩ | ⟨h0, h1, hnone, rfl⟩ | ⟨h1, hnone, rfl⟩ | ⟨h0, h1, hsome, hw, rfl⟩ |
    ⟨h0, h1, hsome, hw, h4, rfl⟩ | ⟨win, rel, h1, hwin, h⟩
  · exact if_pos hneg
  · rw [State.locate, if_neg (by omega), if_pos h1, hnone]
  · rw [State.locate, if_neg (by omega), if_neg (by omega), hnone]
  · have hround : off.toNat / 4 * 4 = off.toNat := by have := registerAt_aligned hsome; omega
    obtain ⟨r, hr⟩ := Option.isSome_iff_exists.mp hsome
    rw [State.locate, if_neg (by omega), if_pos h1, hround, hr]
    exact if_pos hw
  · obtain ⟨r, hr⟩ := Option.isSome_iff_exists.mp hsome
    rw [State.locate, if_neg (by omega), if_pos h1, hr]
    exact (if_neg (not_not.mpr hw)).trans (if_pos h4)
  · rw [State.locate, if_neg (by omega), if_neg (by omega), hwin]
    rcases h with ⟨hpast, -, rfl⟩ | ⟨hin, hmis, rfl⟩
    · exact if_pos hpast
    · exact (if_neg (by omega)).trans (if_pos hmis)

/-! ### Windows (R27, R43, R44, R47) -/

theorem windowAt_ring {rel : Nat} (h : rel < 0x100000) : windowAt (0x100000 + rel) = some (.ring, rel) := by
  rw [windowAt, if_neg (by omega), if_pos (by omega), Nat.add_sub_cancel_left]

theorem windowAt_xbuf {rel : Nat} (h : rel < 0x10000) : windowAt (0x200000 + rel) = some (.xbuf, rel) := by
  rw [windowAt, if_neg (by omega), if_neg (by omega), if_pos (by omega), Nat.add_sub_cancel_left]

theorem windowAt_fftTab {rel : Nat} (h : rel < 0x10000) : windowAt (0x210000 + rel) = some (.fftTab, rel) := by
  rw [windowAt, if_neg (by omega), if_neg (by omega), if_neg (by omega), if_pos (by omega), Nat.add_sub_cancel_left]

theorem windowAt_hannTab {rel : Nat} (h : rel < 0x10000) : windowAt (0x220000 + rel) = some (.hannTab, rel) := by
  rw [windowAt, if_neg (by omega), if_neg (by omega), if_neg (by omega), if_neg (by omega), if_pos (by omega),
    Nat.add_sub_cancel_left]

/-- An access at an offset of a window, from the natural number it stands for. -/
theorem WindowOffset.of_nat {s : State} {first rel : Nat} {width : Width} {win : Window} (hfirst : 0x100 ≤ first)
    (hwin : windowAt (first + rel) = some (win, rel)) (hin : rel + width.bytes ≤ s.extent win)
    (hal : rel % width.bytes = 0) : WindowOffset s ((first : Int) + rel) width win rel :=
  ⟨by omega, by rw [← Int.natCast_add, Int.toNat_natCast]; exact hwin, hin, hal⟩

/-- The low bytes of a word, as a mask keeps them (log 30). -/
theorem leNat_leBytes_width (w : Width) (v : Word) :
    BitVec.ofNat 32 (leNat (leBytes w.bytes v.toNat)) = v &&& BitVec.ofNat 32 (2 ^ (8 * w.bytes) - 1) := by
  have hv := v.isLt
  have hmask : 2 ^ (8 * w.bytes) - 1 < 2 ^ 32 := by cases w <;> decide
  apply BitVec.eq_of_toNat_eq
  rw [leNat_leBytes, BitVec.toNat_and, BitVec.toNat_ofNat, BitVec.toNat_ofNat, Nat.mod_eq_of_lt hmask,
    Nat.and_two_pow_sub_one_eq_mod, Nat.pow_mul]
  exact Nat.mod_eq_of_lt (Nat.lt_of_le_of_lt (Nat.mod_le _ _) hv)

/-- An access reads back the low bytes just stored behind its window. -/
theorem State.hostRead_written {s : State} {off : Int} {width : Width} {win : Window} {rel : Nat} {m : Memory} {v : Word}
    (h : WindowOffset s off width win rel)
    (hm : s.windowMem win = m.setRange unwritten rel (leBytes width.bytes v.toNat)) :
    s.hostRead off width = .ok (v &&& BitVec.ofNat 32 (2 ^ (8 * width.bytes) - 1)) := by
  have hbs := Memory.readBytes_setRange_same unwritten m rel (leBytes width.bytes v.toNat)
  rw [leBytes_length, ← hm] at hbs
  rw [State.hostRead_window_some h hbs, leNat_leBytes_width]

/-- A read of a window: the fault of an unwritten byte, or the bytes with zeros above them. -/
theorem State.hostRead_window_spec {s : State} {off : Int} {width : Width} {win : Window} {rel : Nat}
    (h : WindowOffset s off width win rel) :
    ((∃ k, k < width.bytes ∧ Memory.read unwritten (s.windowMem win) (rel + k) = none) →
      s.hostRead off width = .error (.unwrittenData (.host off))) ∧
    ((∀ k, k < width.bytes → Memory.read unwritten (s.windowMem win) (rel + k) ≠ none) →
      ∃ r : Word, s.hostRead off width = .ok r ∧ r.toNat < 2 ^ (8 * width.bytes) ∧
        ∀ k, k < width.bytes → Memory.read unwritten (s.windowMem win) (rel + k) = some (r.extractLsb' (8 * k) 8)) := by
  refine ⟨fun hnone => State.hostRead_window_none h (Memory.readBytes_eq_none.mpr hnone), fun hall => ?_⟩
  cases hbs : Memory.readBytes unwritten (s.windowMem win) rel width.bytes with
  | none =>
    obtain ⟨k, hk, hnone⟩ := Memory.readBytes_eq_none.mp hbs
    exact absurd hnone (hall k hk)
  | some bs =>
    obtain ⟨hlen, hread⟩ := Memory.readBytes_eq_some.mp hbs
    have h4 : bs.length ≤ 4 := hlen ▸ width.bytes_le.2
    refine ⟨_, State.hostRead_window_some h hbs, ?_, fun k hk => ?_⟩
    · rw [Nat.pow_mul, ← hlen]
      exact Nat.lt_of_le_of_lt (by rw [BitVec.toNat_ofNat]; exact Nat.mod_le _ _) (leNat_lt bs)
    · rw [hread k hk, List.getElem?_eq_getElem (hlen ▸ hk), extractLsb'_leNat h4 (hlen ▸ hk)]

/-- Settles O55: a write stores the low bytes, a read gives the bytes behind the window. -/
theorem windowWriteThenRead : Obligations.WindowWriteThenRead := by
  intro s w rel v hal
  have hpos := w.bytes_le.1
  refine ⟨fun hin hmax => ?_, fun hin hmax => ?_, fun hin hmax => ?_, fun hin hmax => ?_,
    fun window hw first size extent m heq hin hsize => ?_⟩
  · have hwin := windowAt_ring (rel := rel) (by omega)
    have hat : ∀ t : State, t.cfg = s.cfg → WindowOffset t (0x100000 + rel) w .ring rel := fun t ht =>
      .of_nat (first := 0x100000) (by decide) hwin (by rw [State.extent, ht]; exact hin) hal
    refine ⟨_, State.hostWrite_window (hat s rfl) v, rfl, ?_, fun a ha => ?_⟩
    · exact State.hostRead_written (hat (s.writeWindow .ring rel (leBytes w.bytes v.toNat)) rfl) rfl
    · exact Memory.read_setRange_outside (by rw [leBytes_length]; omega)
  · have hwin := windowAt_xbuf (rel := rel) (by omega)
    have hat : ∀ t : State, t.cfg = s.cfg → WindowOffset t (0x200000 + rel) w .xbuf rel := fun t ht =>
      .of_nat (first := 0x200000) (by decide) hwin (by rw [State.extent, ht]; exact hin) hal
    refine ⟨_, State.hostWrite_window (hat s rfl) v, rfl, ?_, fun a ha => ?_⟩
    · exact State.hostRead_written (hat (s.writeWindow .xbuf rel (leBytes w.bytes v.toNat)) rfl) rfl
    · exact Memory.read_setRange_outside (by rw [leBytes_length]; omega)
  · exact State.hostWrite_window (.of_nat (first := 0x210000) (by decide) (windowAt_fftTab hmax) hin hal) v
  · exact State.hostWrite_window (.of_nat (first := 0x220000) (by decide) (windowAt_hannTab hmax) hin hal) v
  · simp only [List.mem_cons, List.not_mem_nil, or_false] at hw
    rcases hw with rfl | rfl | rfl | rfl <;> obtain ⟨rfl, rfl, rfl, rfl⟩ := heq
    · exact State.hostRead_window_spec (win := .ring) (.of_nat (by decide) (windowAt_ring (by omega)) hin hal)
    · exact State.hostRead_window_spec (win := .xbuf) (.of_nat (by decide) (windowAt_xbuf (by omega)) hin hal)
    · exact State.hostRead_window_spec (win := .fftTab) (.of_nat (by decide) (windowAt_fftTab (by omega)) hin hal)
    · exact State.hostRead_window_spec (win := .hannTab) (.of_nat (by decide) (windowAt_hannTab (by omega)) hin hal)

end Sys2Proof.Machine
end


section
/-! Proofs of the statements about the accessors and mutators of the ring (R76–R91). -/

namespace Sys2Proof.Machine

-- Many short elaborations at once would start a thread each.
set_option Elab.async false

/-! ### The guards (R76, R95) -/

section guards

variable {s : State} {h : HalfSel} {c : Chan} {hf : Half}

theorem State.accessor_of_accepts (ha : s.Accepts h c hf) (dflt : Result) (work : Half → Result) :
    s.accessor h c dflt work = work hf := by
  rw [State.accessor, State.accessorHalf_eq_some.mpr ha]

theorem State.accessor_of_rejects (hr : s.active = .notAvailable ∨ s.resolveHalf h = none ∨ s.acqC.toNat ≤ c.toNat)
    (dflt : Result) (work : Half → Result) : s.accessor h c dflt work = dflt := by
  rcases s.accessor_cases h c dflt work with ⟨-, heq⟩ | ⟨hf, hacc, -⟩
  · exact heq
  · obtain ⟨hact, hc, hhalf⟩ := State.accessorHalf_eq_some.mp hacc
    rcases hr with hr | hr | hr
    · exact absurd hr hact
    · rw [hr] at hhalf; cases hhalf
    · omega

theorem State.channelHalf_eq_none : s.channelHalf h c = none ↔ s.resolveHalf h = none ∨ s.acqC.toNat ≤ c.toNat := by
  unfold State.channelHalf
  split
  · simp [*]
  · simp_all

/-- The samples of a whole channel, once they are written, are what a command works on. -/
theorem State.withSamples {xs : List Int} {lo n : Nat} (hl : xs.length = n) (hx : s.Samples hf c lo xs)
    (k : List Int → Result) : s.withData (s.samples? hf c.toNat lo n) k = k xs := by
  rw [State.samples?_of_samples hl hx, State.withData_some]

end guards

/-! ### Defaults (R76) -/

/-- Settles O10: every accessor ends with its default before it looks at the ring. -/
theorem accessorsAnswerDefaults : Obligations.AccessorsAnswerDefaults := by
  intro s h c hr
  have hdflt := fun d w => State.accessor_of_rejects hr d w
  refine ⟨?_, ?_, ?_, fun x hx => ⟨?_, ?_, fun y hy => ⟨?_, ?_, ?_⟩⟩⟩
  · simp only [List.forall_mem_cons]
    exact ⟨hdflt .., hdflt .., hdflt .., nofun⟩
  · simp only [List.forall_mem_cons]
    exact ⟨hdflt .., hdflt .., hdflt .., hdflt .., nofun⟩
  · exact hdflt ..
  · rw [exec_acqMeanShift, execAcqMeanShift, State.withArg_of_hasArg hx]; exact hdflt ..
  · rw [exec_acqSetOffset, execAcqSetOffset, State.withArg_of_hasArg hx]; exact hdflt ..
  · rw [exec_acqMeanLim, execAcqMeanLim, State.withArg_of_hasArg hx, State.withArg_of_hasArg hy]; exact hdflt ..
  · rw [exec_acqTrueRms, execAcqTrueRms, State.withArg_of_hasArg hx, State.withArg_of_hasArg hy]; exact hdflt ..
  · rw [exec_acqCma, execAcqCma, State.withArg_of_hasArg hx, State.withArg_of_hasArg hy]; exact hdflt ..

/-! ### Statistics (R78–R85) -/

theorem absSum_eq (xs : List Int) : absSum xs = (xs.map fun x => |x|).sum := by
  simp only [absSum, Int.abs_eq_natAbs]

/-- Settles O11: the guard passes and the samples are there, so each command returns its value of them. -/
theorem meansOfAChannel : Obligations.MeansOfAChannel := by
  intro s h c hf xs hacc hlen hx
  refine ⟨?_, ?_, fun k hk => ?_⟩
  · rw [exec_acqMean, execAcqMean, State.accessor_of_accepts hacc, State.withSamples hlen hx]; rfl
  · rw [exec_acqAbsMean, execAcqAbsMean, State.accessor_of_accepts hacc, State.withSamples hlen hx, absSum_eq]; rfl
  · rw [exec_acqMeanShift, execAcqMeanShift, State.withArg_of_hasArg hk, State.accessor_of_accepts hacc,
      State.withSamples hlen hx]; rfl

/-- Settles O12: the test of R79 decides between +0.0 and the mean. -/
theorem meanOfAWindow : Obligations.MeanOfAWindow := by
  intro s h c hf b e hacc hb he
  have hrun : exec (.acqMeanLim h c) s = execAcqMeanLim h c s := rfl
  rw [execAcqMeanLim, State.withArg_of_hasArg hb, State.withArg_of_hasArg he, State.accessor_of_accepts hacc] at hrun
  rw [hrun]
  refine ⟨fun hbad => ?_, fun xs hlt hS hlen hx => ?_⟩
  · exact if_pos (hbad.imp_left fun heq => congrArg u32 heq)
  · refine (if_neg ?_).trans ((State.withSamples hlen hx _).trans ?_)
    · simp only [u32]; omega
    · rw [hlen]; rfl

/-- A bound on the largest square is a bound on every square (R82). -/
theorem mul_foldl_maxSquare_lt (n m b : Nat) (xs : List Int) :
    n * xs.foldl (fun m x => max m (x.natAbs * x.natAbs)) m < b ↔
      n * m < b ∧ ∀ x ∈ xs, n * (x.natAbs * x.natAbs) < b := by
  induction xs generalizing m with
  | nil => simp
  | cons x xs ih =>
    rw [List.foldl_cons, ih, ← Nat.mul_max_mul_left, max_lt_iff, List.forall_mem_cons, and_assoc]

theorem natCast_natAbs_mul_self (n : Nat) (x : Int) :
    (n * (x.natAbs * x.natAbs) < 2 ^ 63) ↔ (n : Int) * (x * x) < 2 ^ 63 := by
  rw [← Int.natAbs_mul_self]; norm_cast

/-- The overflow bound of R82, for each sample. -/
theorem rmsBound_iff (xs : List Int) :
    xs.length * maxSquare xs < 2 ^ 63 ↔ ∀ x ∈ xs, (xs.length : Int) * (x * x) < 2 ^ 63 := by
  simp only [maxSquare, mul_foldl_maxSquare_lt, natCast_natAbs_mul_self, Nat.mul_zero, Nat.two_pow_pos, true_and]

theorem State.rmsOf_exact {xs : List Int} (s : State) (h : ∀ x ∈ xs, (xs.length : Int) * (x * x) < 2 ^ 63) :
    s.rmsOf xs = (F64.sqrt (F64.div (F64.ofInt (xs.map fun x => x * x).sum) (F64.ofInt (xs.length : Int))), s) :=
  if_pos ((rmsBound_iff xs).mpr h)

theorem State.rmsOf_drawn {xs : List Int} (s : State) (h : ∃ x ∈ xs, 2 ^ 63 ≤ (xs.length : Int) * (x * x)) :
    s.rmsOf xs = (BitVec.ofNat 64 s.draw.1, s.draw.2) :=
  if_neg fun hlt => by
    obtain ⟨x, hx, hge⟩ := h
    exact absurd ((rmsBound_iff xs).mp hlt x hx) (Int.not_lt.mpr hge)

/-- Settles O13: R82's bound decides between the root mean square and the draw, R83's window between both and +0.0. -/
theorem rmsIsExactOrDrawn : Obligations.RmsIsExactOrDrawn := by
  intro s h c hf hacc
  refine ⟨fun xs hlen hx => ?_, fun b e hb he => ?_⟩
  · have hrun : exec (.acqRms h c) s = execAcqRms h c s := rfl
    rw [execAcqRms, State.accessor_of_accepts hacc, State.withSamples hlen hx] at hrun
    rw [hrun]
    exact ⟨fun hb => by rw [State.rmsOf_exact s hb]; rfl, fun hb => by rw [State.rmsOf_drawn s hb]; rfl⟩
  · have hrun : exec (.acqTrueRms h c) s = execAcqTrueRms h c s := rfl
    rw [execAcqTrueRms, State.withArg_of_hasArg hb, State.withArg_of_hasArg he, State.accessor_of_accepts hacc] at hrun
    refine ⟨fun hbad => hrun.trans (if_pos hbad), fun xs hbe hS hlen hx => ?_⟩
    have hin : ¬(u32 e < u32 b ∨ s.acqS.toNat ≤ u32 e) := by simp only [u32]; omega
    have hval := (hrun.trans (if_neg hin)).trans (State.withSamples hlen hx fun xs => (s.rmsOf xs).2.finish64 (s.rmsOf xs).1)
    exact ⟨fun hb => hval.trans (by rw [State.rmsOf_exact s hb]; rfl),
      fun hb => hval.trans (by rw [State.rmsOf_drawn s hb]; rfl)⟩

/-- Keeping the better of two along a list ends at the element that is better than every other. -/
theorem foldl_keep_eq {r : Int → Int → Prop} [DecidableRel r] {a m : Int} {xs : List Int} (hm : m ∈ a :: xs)
    (hnone : ∀ x ∈ a :: xs, ¬r m x) (hsome : ∀ x ∈ a :: xs, x ≠ m → r x m) :
    xs.foldl (fun a y => if r a y then y else a) a = m := by
  induction xs generalizing a with
  | nil => exact (List.mem_singleton.mp hm).symm
  | cons y ys ih =>
    obtain ⟨hna, hny, hnys⟩ := (List.forall_mem_cons.trans (and_congr_right fun _ => List.forall_mem_cons)).mp hnone
    obtain ⟨hsa, hsy, hsys⟩ := (List.forall_mem_cons.trans (and_congr_right fun _ => List.forall_mem_cons)).mp hsome
    rw [List.foldl_cons]
    refine ih ?_ (List.forall_mem_cons.mpr ⟨?_, hnys⟩) (List.forall_mem_cons.mpr ⟨?_, hsys⟩)
    · rcases List.mem_cons.mp hm with rfl | hm
      · rw [if_neg hny]; exact List.mem_cons_self
      · rcases List.mem_cons.mp hm with rfl | hm
        · by_cases hr : r a m
          · rw [if_pos hr]; exact List.mem_cons_self
          · rw [if_neg hr, not_not.mp (mt (hsa ·) hr)]; exact List.mem_cons_self
        · exact List.mem_cons_of_mem _ hm
    · split
      · exact hny
      · exact hna
    · split
      · exact hsy
      · exact hsa

theorem maxOf_eq {xs : List Int} {m : Int} (hm : m ∈ xs) (h : ∀ x ∈ xs, x ≤ m) : maxOf xs = m := by
  cases xs with
  | nil => exact absurd hm List.not_mem_nil
  | cons x xs =>
    exact foldl_keep_eq (r := (· < ·)) hm (fun y hy => Int.not_lt.mpr (h y hy)) fun y hy hne => lt_of_le_of_ne (h y hy) hne

theorem minOf_eq {xs : List Int} {m : Int} (hm : m ∈ xs) (h : ∀ x ∈ xs, m ≤ x) : minOf xs = m := by
  cases xs with
  | nil => exact absurd hm List.not_mem_nil
  | cons x xs =>
    exact foldl_keep_eq (r := (· > ·)) hm (fun y hy => Int.not_lt.mpr (h y hy))
      fun y hy hne => lt_of_le_of_ne (h y hy) (Ne.symm hne)

/-- Settles O14: the fold keeps the extremal sample. -/
theorem largestAndSmallestSample : Obligations.LargestAndSmallestSample := by
  intro s h c hf xs m hacc hlen hx hm
  refine ⟨fun hmax => ?_, fun hmin => ?_⟩
  · rw [exec_acqMax, execAcqMax, State.accessor_of_accepts hacc, State.withSamples hlen hx, maxOf_eq hm hmax]; rfl
  · rw [exec_acqMin, execAcqMin, State.accessor_of_accepts hacc, State.withSamples hlen hx, minOf_eq hm hmin]; rfl

/-! ### Mutators (R86, R87) -/

/-- Storing a whole channel: its samples, and no other byte of the ring. -/
theorem State.setSamples_channel {s : State} {hf : Half} {c : Chan} {vs : List Int} (hC : c.toNat < s.acqC.toNat)
    (hlen : vs.length = s.acqS.toNat) :
    s.setSamples hf c.toNat 0 vs = { s with ring := (s.setSamples hf c.toNat 0 vs).ring } ∧
      (∀ i (hi : i < vs.length), (s.setSamples hf c.toNat 0 vs).sample? hf i c.toNat = some (Int.bmod vs[i] (2 ^ s.width))) ∧
      ∀ a, ¬s.InChannel hf c a →
        Memory.read unwritten (s.setSamples hf c.toNat 0 vs).ring a = Memory.read unwritten s.ring a := by
  obtain ⟨r, hr⟩ := s.setSamples_eq hf c.toNat 0 vs
  refine ⟨by rw [hr], fun i hi => ?_, fun a ha => ?_⟩
  · have := State.sample?_setSamples (s := s) (h := hf) (c := c.toNat) (lo := 0) (by omega) hi
    rwa [Nat.zero_add] at this
  · exact State.read_setSamples_outside fun k hk hin => ha ⟨k, by omega, by simpa using hin⟩

/-- The averages of R87 are the one list that meets the recurrence. -/
theorem cmaSeq_eq {k : Nat} {a : Int} {xs ys : List Int} (hlen : ys.length = xs.length)
    (h : ∀ i, i < xs.length →
      ys.getD i 0 = (a :: ys).getD i 0 + Int.tdiv (xs.getD i 0 - (a :: ys).getD i 0) (k + 1)) : cmaSeq k a xs = ys := by
  induction xs generalizing a ys with
  | nil => exact (List.eq_nil_of_length_eq_zero hlen).symm
  | cons x xs ih =>
    cases ys with
    | nil => cases hlen
    | cons y ys =>
      have hy : y = a + Int.tdiv (x - a) (k + 1) := h 0 (Nat.succ_pos _)
      rw [cmaSeq, ← hy, ih (by simpa using hlen) fun i hi => by simpa using h (i + 1) (by simpa using hi)]

theorem getD_cons_length (a : Int) (ys : List Int) : (a :: ys).getD ys.length 0 = ys.getLastD a := by
  induction ys generalizing a with
  | nil => rfl
  | cons y ys ih => rw [List.length_cons, List.getD_cons_succ, ih, List.getLastD_cons]

/-- Settles O15: both commands store a list of values over the channel. -/
theorem mutatorsRewriteTheChannel : Obligations.MutatorsRewriteTheChannel := by
  intro s h c hf xs a0 hacc hlen hx ha0
  have hC := hacc.2.1
  refine ⟨?_, fun k ys hk hys hrec => ?_⟩
  · obtain ⟨heq, hin, hout⟩ := State.setSamples_channel (hf := hf) (vs := xs.map fun x => x + a0.toInt) hC (by simpa using hlen)
    refine ⟨{ s.setSamples hf c.toNat 0 (xs.map fun x => x + a0.toInt) with rc := .ok }, ?_, ?_, fun i hi => ?_, hout⟩
    · rw [exec_acqSetOffset, execAcqSetOffset, State.withArg_of_hasArg ha0, State.accessor_of_accepts hacc,
        State.withSamples hlen hx]; rfl
    · rw [heq]
    · refine (hin i (by simpa using hi)).trans ?_
      rw [List.getElem_map, List.getD_eq_getElem _ _ hi]
  · obtain ⟨heq, hin, hout⟩ := State.setSamples_channel (hf := hf) (vs := ys) hC (hys.trans hlen)
    refine ⟨{ (s.setSamples hf c.toNat 0 ys).setRes 0 (BitVec.ofInt 32 ((a0.toInt :: ys).getD xs.length 0)) with rc := .ok },
      ?_, ?_, fun i hi => ?_, hout⟩
    · rw [exec_acqCma, execAcqCma, State.withArg_of_hasArg ha0, State.withArg_of_hasArg hk,
        State.accessor_of_accepts hacc, State.withSamples hlen hx, ← hys, getD_cons_length]
      simp only [u32, i32, cmaSeq_eq hys hrec, State.finish32_eq]
    · rw [heq]; rfl
    · refine (hin i (by omega)).trans ?_
      rw [List.getD_eq_getElem _ _ (by omega)]

/-! ### Peak searches (R88–R91) -/

section flips

variable {rising : Nat → Option Bool} {dir : Bool} {pre post : List Nat}

/-- The walk goes past every index whose direction is the first one. -/
theorem firstFlip_append (hpre : ∀ j ∈ pre, rising j = some dir) :
    firstFlip rising dir (pre ++ post) = firstFlip rising dir post := by
  induction pre with
  | nil => rfl
  | cons j js ih =>
    obtain ⟨hj, hjs⟩ := List.forall_mem_cons.mp hpre
    rw [List.cons_append, firstFlip, hj]
    simp only [bne_self_eq_false, Bool.false_eq_true, if_false]
    exact ih hjs

theorem firstFlip_of_all (hpre : ∀ j ∈ pre, rising j = some dir) : firstFlip rising dir pre = some none := by
  rw [← List.append_nil pre, firstFlip_append hpre]; rfl

/-- The walk ends where the direction differs. -/
theorem firstFlip_of_flip {i : Nat} {d : Bool} (hpre : ∀ j ∈ pre, rising j = some dir) (hi : rising i = some d)
    (hd : d ≠ dir) : firstFlip rising dir (pre ++ i :: post) = some (some i) := by
  rw [firstFlip_append hpre, firstFlip, hi]
  simp [hd]

/-- The walk faults where it comes to an unwritten sample (log 28). -/
theorem firstFlip_of_none {i : Nat} (hpre : ∀ j ∈ pre, rising j = some dir) (hi : rising i = none) :
    firstFlip rising dir (pre ++ i :: post) = none := by
  rw [firstFlip_append hpre, firstFlip, hi]

end flips

theorem range_map_succ (n : Nat) : (List.range n).map (· + 1) = List.range' 1 n := by
  rw [List.range'_eq_map_range]; simp only [Nat.add_comm]

/-- The indices of a walk, up to one of them and from it on. -/
theorem range'_split {n r : Nat} (h1 : 1 ≤ r) (hn : r ≤ n) :
    List.range' 1 n = List.range' 1 (r - 1) ++ r :: List.range' (r + 1) (n - r) := by
  have := List.range'_append_1 (s := 1) (m := r - 1) (n := n - r + 1)
  rw [show 1 + (r - 1) = r by omega, show r - 1 + (n - r + 1) = n by omega, List.range'_succ] at this
  exact this.symm

theorem State.rising?_of_samples_from {s : State} {hf : Half} {c : Chan} {xs : List Int} {lo i : Nat}
    (hx : s.Samples hf c lo xs) (hi : i + 1 < xs.length) : s.rising? hf c.toNat (lo + i) = some (risingAt xs i) := by
  have h0 := hx i (by omega)
  have h1 := hx (i + 1) hi
  rw [List.getElem?_eq_getElem (by omega)] at h0
  rw [List.getElem?_eq_getElem hi, ← Nat.add_assoc] at h1
  unfold State.rising? risingAt
  rw [h0, h1, List.getD_eq_getElem _ _ hi, List.getD_eq_getElem _ _ (by omega)]

theorem State.rising?_of_samples {s : State} {hf : Half} {c : Chan} {xs : List Int} {i : Nat} (hx : s.Samples hf c 0 xs)
    (hi : i + 1 < xs.length) : s.rising? hf c.toNat i = some (risingAt xs i) := by
  rw [← State.rising?_of_samples_from hx hi, Nat.zero_add]

section peaks

variable {s : State} {hf : Half} {c : Chan} {xs : List Int}

/-- The forward search finds the first flip from the front (R89). -/
theorem State.peakFwd?_of_isFirstFlip {b : Nat} (hlen : xs.length = s.acqS.toNat) (hx : s.Samples hf c 0 xs)
    (hb : IsFirstFlip xs b) : s.peakFwd? hf c.toNat = some b := by
  unfold State.peakFwd?
  simp only []
  split
  · rcases hb with ⟨-, h2, -⟩ | ⟨rfl, -⟩
    · omega
    · rfl
  · rw [State.rising?_of_samples hx (by omega), range_map_succ]
    rcases hb with ⟨h1, h2, hne, hsame⟩ | ⟨rfl, hsame⟩
    · simp only [range'_split (n := s.acqS.toNat - 2) h1 (by omega)]
      rw [firstFlip_of_flip _ (State.rising?_of_samples hx (by omega)) hne]
      · rfl
      · intro j hj
        rw [List.mem_range'_1] at hj
        rw [State.rising?_of_samples hx (by omega), hsame j (by omega) hj.1]
    · simp only []
      rw [firstFlip_of_all]
      · rfl
      · intro j hj
        rw [List.mem_range'_1] at hj
        rw [State.rising?_of_samples hx (by omega), hsame j (by omega) hj.1 (by omega)]

/-- The backward search finds the first flip from the back (R90). -/
theorem State.peakRev?_of_isLastFlip {e : Nat} (hlen : xs.length = s.acqS.toNat) (hx : s.Samples hf c 0 xs)
    (he : IsLastFlip xs e) : s.peakRev? hf c.toNat = some e := by
  unfold State.peakRev?
  simp only []
  split
  · rcases he with ⟨h1, h2, -⟩ | ⟨rfl, -⟩
    · omega
    · rw [hlen]
  · rw [State.rising?_of_samples hx (by omega), range_map_succ, ← hlen]
    rcases he with ⟨h1, h2, hne, hsame⟩ | ⟨rfl, hsame⟩
    · simp only [range'_split (n := xs.length - 2) h1 (by omega), List.reverse_append, List.reverse_cons, List.append_assoc,
        List.singleton_append]
      rw [firstFlip_of_flip (i := e) (d := risingAt xs (e - 1)) _ (State.rising?_of_samples hx (by omega)) hne]
      · rfl
      · intro j hj
        rw [List.mem_reverse, List.mem_range'_1] at hj
        rw [State.rising?_of_samples hx (by omega), hsame j (by omega) (by omega) (by omega)]
    · simp only []
      rw [firstFlip_of_all]
      · rfl
      · intro j hj
        rw [List.mem_reverse, List.mem_range'_1] at hj
        rw [State.rising?_of_samples hx (by omega), hsame j (by omega) hj.1 (by omega)]

end peaks

/-- Settles O16: each search is the walk to the first flip. -/
theorem peaksAreDirectionFlips : Obligations.PeaksAreDirectionFlips := by
  intro s h c hf xs b e hacc hlen _ hx hb he
  have hfwd := State.peakFwd?_of_isFirstFlip hlen hx hb
  have hrev := State.peakRev?_of_isLastFlip hlen hx he
  refine ⟨?_, ?_, ?_⟩
  · rw [exec_acqPeakFwd, execAcqPeakFwd, State.accessor_of_accepts hacc, hfwd]; rfl
  · rw [exec_acqPeakRev, execAcqPeakRev, State.accessor_of_accepts hacc, hrev]; rfl
  · rw [exec_acqSineWin, execAcqSineWin, State.accessor_of_accepts hacc, hfwd, hrev]; rfl

end Sys2Proof.Machine
end


section
/-! Proofs of the producer and delivery statements (R71–R73, R75). -/

namespace Sys2Proof.Machine

-- Many short elaborations at once would start a thread each.
set_option Elab.async false

/-! ### PROD's steps (R71, R72) -/

/-- The bytes of a number, lowest first. -/
theorem leBytes_getElem? {n v k : Nat} (hk : k < n) : (leBytes n v)[k]? = some (BitVec.ofNat 8 (v / 256 ^ k)) := by
  induction n generalizing v k with
  | zero => omega
  | succ n ih =>
    cases k with
    | zero => simp [leBytes]
    | succ k =>
      rw [leBytes, List.getElem?_cons_succ, ih (by omega), Nat.div_div_eq_div_mul, Nat.pow_succ, Nat.mul_comm 256]

/-- A draw looks at the tape only, and changes the draws only. -/
theorem State.draw_atTurn (s : State) (l : List Turn) :
    ({ s with schedule := l, tgt := .none } : State).draw =
      (s.draw.1, { s.draw.2 with schedule := l, tgt := .none }) := by
  simp only [State.draw]
  split <;> rfl

/-- A scheduled turn of an enabled PROD step. -/
theorem step_of_turn {s : State} {l : List Turn} {turn : Turn} (hl : s.schedule = turn :: l)
    (hen : ({ s with schedule := l } : State).enabled turn = true) :
    step s = ({ s with schedule := l } : State).agentStep turn := by
  rw [step, State.takeTurn_cons hl]
  exact State.runTurn_of_enabled hen

/-- Settles O7: `ArmedInv` bounds the pointer, so its 32 bits hold the one of R71. -/
theorem producerStepsDoTheirWork : Obligations.ProducerStepsDoTheirWork := by
  refine ⟨fun s l hinv harmed hfree hl => ?_, fun s l e rest hfree hl hfifo => ?_⟩
  · obtain ⟨hv, harb, -⟩ := hinv
    rw [if_pos harmed] at harb
    obtain ⟨hwptr, -, hreached, -⟩ := State.ArmedInv.produce hv harb
    have hen : ({ s with schedule := l } : State).enabled .produce = true := by
      simp only [State.enabled, Bool.and_eq_true]
      exact ⟨State.prodFree_iff.mpr hfree, harmed⟩
    refine ⟨_, step_of_turn hl hen, ?_, hwptr, ?_, fun k hk => ?_, fun a ha => ?_⟩
    · simp only [State.clearTgt, State.produceStep, State.draw_atTurn]
    · have hfifo : (({ s with schedule := l } : State).clearTgt.produceStep).fifo = s.fifo ++ s.reached := rfl
      have hptr : (({ s with schedule := l } : State).clearTgt.produceStep).wptr.toNat = s.nextWptr := hwptr
      rw [hfifo, hptr, hreached]
      rfl
    · have hring : (({ s with schedule := l } : State).clearTgt.produceStep).ring =
          Memory.setRange unwritten s.ring (s.wptr.toNat * s.elemBytes) (leBytes s.elemBytes s.draw.1) := by
        rw [← State.draw_fst_congr (s := s) (t := ({ s with schedule := l } : State).clearTgt) rfl rfl]; rfl
      rw [hring, Memory.read_setRange, if_pos (by rw [leBytes_length]; omega), Nat.add_sub_cancel_left, leBytes_getElem? hk]
    · refine Memory.read_setRange_outside ?_
      rw [leBytes_length]
      change a < s.wptr.toNat * s.elemBytes ∨ s.wptr.toNat * s.elemBytes + s.elemBytes ≤ a
      omega
  · have hen : ({ s with schedule := l } : State).enabled .complete = true := by
      simp only [State.enabled, Bool.and_eq_true, hfifo]
      exact ⟨State.prodFree_iff.mpr hfree, rfl⟩
    rw [step_of_turn hl hen]
    change Host.Outcome.next (State.completeStep _) = _
    rw [State.completeStep_of_cons (s := ({ s with schedule := l } : State).clearTgt) (e := e) (rest := rest) hfifo]
    cases e <;> rfl

/-! ### The delivery law (R73) -/

/-- The state in which the delivery law is stated: an armed arbiter that meets its invariant. -/
abbrev State.ArbiterRuns (s : State) : Prop := s.ArbiterInv ∧ s.armed = true

theorem State.ArbiterRuns.produceStep {s : State} (h : s.ArbiterRuns) : s.produceStep.ArbiterRuns := by
  refine ⟨stepKeeps_arbiter.produce s h.2 h.1, ?_⟩
  obtain ⟨tape, n, hd⟩ := s.draw_eq
  rw [State.produceStep, hd]
  exact h.2

theorem State.produceStep_active_last (s : State) : s.produceStep.active = s.active ∧ s.produceStep.last = s.last := by
  obtain ⟨tape, n, hd⟩ := s.draw_eq
  rw [State.produceStep, hd]
  exact ⟨rfl, rfl⟩

theorem State.ArbiterRuns.completeStep {s : State} {e : Completion} {rest : List Completion} (h : s.ArbiterRuns)
    (hfifo : s.fifo = e :: rest) : s.completeStep.ArbiterRuns := by
  rw [State.completeStep_of_cons hfifo]
  exact ⟨stepKeeps_arbiter.complete s e rest hfifo h.1, h.2⟩

/-- The oldest completion of an armed arbiter is the one `ACTIVE` expects. -/
theorem State.ArbiterRuns.fifo_head {s : State} {e : Completion} {rest : List Completion} (h : s.ArbiterRuns)
    (hfifo : s.fifo = e :: rest) : e = s.active.expected ∧ alternation e.other rest = some s.nextReached := by
  obtain ⟨⟨-, harb, -⟩, harmed⟩ := h
  rw [if_pos harmed] at harb
  obtain ⟨-, -, -, -, -, halt⟩ := harb
  exact alternation_cons (hfifo ▸ halt)

/-- A completion is always of the half that is not `ACTIVE` (R72). -/
theorem ActiveBuffer.expected_active_ne (a : ActiveBuffer) : a.expected.active ≠ a := by cases a <;> decide

/-- What a poll delivers (R75): `RES0` = 1 and the half in `RES1`, or `RES0` = 0. -/
theorem State.arbiterStep_poll_of_ne {s : State} (h : s.active ≠ s.last) :
    s.arbiterStep .poll =
      { (((s.setRes 0 1).setRes 1 (if s.active = .first then 0 else 1)).setRes 2 s.acqC).setRes 3 s.acqS with
        last := s.active, rc := .ok } := by
  rw [State.arbiterStep, exec_acqLoop, execAcqLoop_of_ne h]

theorem State.arbiterStep_poll_of_eq {s : State} (h : s.active = s.last) :
    s.arbiterStep .poll = { s.setRes 0 0 with rc := .ok } := by
  rw [State.arbiterStep, exec_acqLoop, execAcqLoop_of_eq h]

/-- The half still to be delivered. -/
def State.undelivered (s : State) : List ActiveBuffer := if s.active ≠ s.last then [s.active] else []

/-- One event keeps the count: what it delivers and what is then undelivered are what was undelivered and what it
performs, unless a completion step overwrites an undelivered half. -/
theorem State.undelivered_poll {s : State} (h : s.ArbiterRuns) (es : List ArbiterEvent) :
    s.delivered (.poll :: es) = s.undelivered ++ (s.arbiterStep .poll).delivered es ∧
      (s.arbiterStep .poll).active = (s.arbiterStep .poll).last ∧ (s.arbiterStep .poll).ArbiterRuns := by
  obtain ⟨⟨hv, harb, hna⟩, harmed⟩ := h
  by_cases heq : s.active = s.last
  · rw [State.delivered, State.arbiterStep_poll_of_eq heq, State.undelivered, if_neg (not_not.mpr heq), if_neg (by simp)]
    exact ⟨rfl, heq, ⟨hv, harb, hna⟩, harmed⟩
  · have hhalf : (if (if s.active = .first then (0 : Word) else 1) = 0 then ActiveBuffer.first else .second) = s.active := by
      have hne : s.active ≠ .notAvailable := fun hn => heq (hn.trans (hna hn).symm)
      cases hact : s.active <;> simp_all
    rw [State.delivered, State.arbiterStep_poll_of_ne heq, State.undelivered, if_pos heq, if_pos (by simp)]
    refine ⟨?_, rfl, ⟨hv, harb, fun h => h⟩, harmed⟩
    congr 2
    simpa using hhalf

/-- The generalisation of the delivery law to a half still to be delivered, which is there only if a poll comes before the
next completion. -/
theorem State.delivered_eq_undelivered_append {s : State} {pending : Bool} {es : List ArbiterEvent} (h : s.ArbiterRuns)
    (hpend : pending = false → s.active = s.last) (hpoll : polledInTime pending es = true) :
    s.delivered es = s.undelivered ++ s.performed es := by
  induction es generalizing s pending with
  | nil =>
    have hp : pending = false := by simpa [polledInTime] using hpoll
    rw [State.undelivered, if_neg (not_not.mpr (hpend hp))]
    rfl
  | cons e es ih =>
    cases e with
    | produce =>
      obtain ⟨hact, hlast⟩ := s.produceStep_active_last
      have hrest := ih (s := s.produceStep) h.produceStep (by rw [hact, hlast]; exact hpend) hpoll
      rw [State.undelivered, hact, hlast] at hrest
      exact hrest
    | complete =>
      obtain ⟨hp, hpoll⟩ : pending = false ∧ polledInTime true es = true := by simpa [polledInTime] using hpoll
      have hsame := hpend hp
      rw [State.undelivered, if_neg (not_not.mpr hsame), List.nil_append, State.delivered, State.performed,
        State.arbiterStep, if_neg (by simp), List.nil_append]
      cases hfifo : s.fifo with
      | nil =>
        have hnone : s.completeStep = s := by rw [State.completeStep, hfifo]
        rw [hnone, if_neg (by simp), List.nil_append, ih h (fun _ => hsame) hpoll, State.undelivered,
          if_neg (not_not.mpr hsame), List.nil_append]
      | cons e rest =>
        obtain ⟨he, -⟩ := h.fifo_head hfifo
        have hrest := ih (h.completeStep hfifo) (fun h => absurd h (by decide)) hpoll
        rw [State.undelivered, State.completeStep_of_cons hfifo,
          if_pos (show e.active ≠ s.last from hsame ▸ he ▸ ActiveBuffer.expected_active_ne _)] at hrest
        rw [State.completeStep_of_cons hfifo, if_pos (by simp)]
        exact hrest
    | poll =>
      obtain ⟨hdel, hsame, hruns⟩ := State.undelivered_poll h es
      have hnone : (s.arbiterStep .poll).undelivered = [] := if_neg (not_not.mpr hsame)
      have hperf : s.performed (.poll :: es) = (s.arbiterStep .poll).performed es := by
        rw [State.performed, if_neg (by simp)]; rfl
      rw [hdel, ih hruns (fun _ => hsame) hpoll, hnone, hperf]
      rfl

/-- Settles O51: nothing is undelivered at the start. -/
theorem everyCompletionIsDeliveredOnce : Obligations.EveryCompletionIsDeliveredOnce := by
  intro s es hinv harmed hsame hpoll
  rw [State.delivered_eq_undelivered_append ⟨hinv, harmed⟩ (fun _ => hsame) hpoll, State.undelivered,
    if_neg (not_not.mpr hsame), List.nil_append]

/-- Settles O52: two alternating completions bring `ACTIVE` back to where it was. -/
theorem missedTraversalIsSilent : Obligations.MissedTraversalIsSilent := by
  intro s hinv harmed hsame hna hlen
  have hruns : s.ArbiterRuns := ⟨hinv, harmed⟩
  obtain ⟨e, d, rest, hfifo⟩ : ∃ e d rest, s.fifo = e :: d :: rest := by
    match hf : s.fifo, hlen with
    | e :: d :: rest, _ => exact ⟨e, d, rest, rfl⟩
  obtain ⟨he, halt⟩ := hruns.fifo_head hfifo
  obtain ⟨hd, -⟩ := alternation_cons halt
  have hback : d.active = s.last := by
    rw [hd, he, hsame]
    cases hl : s.last with
    | notAvailable => exact absurd hl hna
    | first => rfl
    | second => rfl
  rw [State.completeStep_of_cons hfifo, State.completeStep_of_cons (s := { s with fifo := d :: rest, active := e.active }) rfl]
  exact ⟨hback, rfl, (exec_acqLoop _).trans (execAcqLoop_of_eq hback)⟩

end Sys2Proof.Machine
end


section
/-! Proofs of the Hanning and IIR filter statements (R92–R109), and of what an uninitialised unit answers. -/

namespace Sys2Proof.Machine

-- Many short elaborations at once would start a thread each.
set_option Elab.async false

/-! ### Tables of equal entries -/

/-- The bytes of an entry in a table of entries of `w` bytes each. -/
theorem getElem?_flatMap_entry {α β : Type} {f : α → List β} {w : Nat} {l : List α} {i j : Nat}
    (hw : ∀ x, (f x).length = w) (hj : j < w) : (l.flatMap f)[w * i + j]? = l[i]?.bind fun x => (f x)[j]? := by
  induction l generalizing i with
  | nil => simp
  | cons x xs ih =>
    rw [List.flatMap_cons]
    cases i with
    | zero => rw [Nat.mul_zero, Nat.zero_add, List.getElem?_append_left (by rw [hw]; exact hj)]; rfl
    | succ i =>
      have hoff : w * (i + 1) + j = w + (w * i + j) := by rw [Nat.mul_succ]; omega
      rw [List.getElem?_append_right (by rw [hw]; omega), hw, hoff, Nat.add_sub_cancel_left, ih]
      rfl

/-- An entry of a table just stored is read back. -/
theorem Memory.readBytes_setRange_entry {α : Type} {f : α → List Byte} {w : Nat} {l : List α} {i : Nat} {x : α}
    (blank : Nat → Option Byte) (m : Memory) (hw : ∀ x, (f x).length = w) (hi : l[i]? = some x) :
    Memory.readBytes blank (m.setRange blank 0 (l.flatMap f)) (w * i) w = some (f x) := by
  refine Memory.readBytes_eq_some.mpr ⟨hw x, fun j hj => ?_⟩
  have hentry := getElem?_flatMap_entry (l := l) (i := i) hw hj
  rw [hi, Option.bind_some] at hentry
  obtain ⟨hlt, -⟩ := List.getElem?_eq_some_iff.mp (hentry.trans (List.getElem?_eq_getElem (by rw [hw]; exact hj)))
  rw [Memory.read_setRange, if_pos ⟨Nat.zero_le _, by omega⟩, Nat.sub_zero, hentry]

/-! ### Hanning window (R92–R96) -/

/-- Settles O17: the table is the coefficients, one after another. -/
theorem hannInitFillsTheTable : Obligations.HannInitFillsTheTable := by
  intro s len hlen
  have hrun : exec .hannInit s = execHannInit s := rfl
  rw [execHannInit, State.withArg_of_hasArg hlen] at hrun
  refine ⟨fun hbad => hrun.trans (if_pos hbad), fun h1 hmax => ?_⟩
  have hok : ¬(u32 len = 0 ∨ s.cfg.hannMax < u32 len) := by simp only [u32]; omega
  refine ⟨_, hrun.trans (if_neg hok), rfl, fun i hi => ?_, fun a ha => ?_⟩
  · exact Memory.readBytes_setRange_entry _ _ (fun _ => leBytes_length 4 _)
      (x := hcoef i len.toNat) (by rw [List.getElem?_map, List.getElem?_range (show i < u32 len from hi)]; rfl)
  · refine Memory.read_setRange_outside (.inr ?_)
    rw [f32Bytes_length, List.length_map, List.length_range]
    simpa [u32] using ha

/-- The first coefficients of the table, where they are written. -/
theorem State.coefs?_of_bytes {s : State} {i n : Nat} {ks : List F32} (hlen : ks.length = n)
    (h : ∀ k, k < n → Memory.readBytes unwritten s.hcoef (4 * (i + k)) 4 = some (leBytes 4 (ks.getD k 0).toNat)) :
    s.coefs? i n = some ks := by
  induction ks generalizing i n with
  | nil => subst hlen; rfl
  | cons k ks ih =>
    subst hlen
    have hhead := h 0 (Nat.succ_pos _)
    have htail := ih (i := i + 1) rfl fun j hj => by
      have := h (j + 1) (Nat.succ_lt_succ hj)
      rwa [List.getD_cons_succ, show i + (j + 1) = i + 1 + j by omega] at this
    rw [List.length_cons, State.coefs?, htail]
    rw [Nat.add_zero, List.getD_cons_zero] at hhead
    have hk : BitVec.ofNat 32 (leNat (leBytes 4 k.toNat)) = k := by
      rw [leNat_leBytes, Nat.mod_eq_of_lt (b := 256 ^ 4) k.isLt, BitVec.ofNat_toNat, BitVec.setWidth_eq]
    rw [hhead]
    simp only [hk]

/-- A product in the element's range is its integer part (R93). -/
theorem State.hmul_of_inRange {s : State} {x v : Int} {k : F32} (hv : F32.trunc (F32.mul (F32.ofInt x) k) = some v)
    (hlo : -(2 ^ (s.width - 1)) ≤ v) (hhi : v < 2 ^ (s.width - 1)) : s.hmul x k = (v, s) := by
  rw [State.hmul, hv]
  exact if_pos ⟨hlo, hhi⟩

/-- The same of one product among those of a channel: the draws before it do not matter. -/
theorem State.hmulAll_getElem? {s : State} {xs : List Int} {ks : List F32} {n : Nat} {v : Int} (hx : n < xs.length)
    (hk : n < ks.length) (hv : F32.trunc (F32.mul (F32.ofInt (xs.getD n 0)) (ks.getD n 0)) = some v)
    (hlo : -(2 ^ (s.width - 1)) ≤ v) (hhi : v < 2 ^ (s.width - 1)) : (s.hmulAll xs ks).1[n]? = some v := by
  induction xs generalizing s ks n with
  | nil => simp at hx
  | cons x xs ih =>
    cases ks with
    | nil => simp at hk
    | cons k ks =>
      rw [State.hmulAll]
      cases n with
      | zero => rw [State.hmul_of_inRange (x := x) (k := k) hv hlo hhi]; rfl
      | succ n =>
        obtain ⟨tape, m, hd⟩ := s.hmul_snd x k
        rw [List.getElem?_cons_succ, hd]
        exact ih (by simpa using hx) (by simpa using hk) hv hlo hhi

/-- A value of W bits is its own wrap (R11). -/
theorem State.bmod_of_inRange {s : State} {v : Int} (hlo : -(2 ^ (s.width - 1)) ≤ v) (hhi : v < 2 ^ (s.width - 1)) :
    Int.bmod v (2 ^ s.width) = v := by
  have hw : s.width = 32 ∨ s.width = 16 := by unfold State.width; split <;> simp
  rcases hw with hw | hw <;> rw [hw] at hlo hhi ⊢
  · exact Int.bmod_eq_of_le (by norm_num at hlo ⊢; omega) (by norm_num at hhi ⊢; omega)
  · exact Int.bmod_eq_of_le (by norm_num at hlo ⊢; omega) (by norm_num at hhi ⊢; omega)

/-- Multiplying a channel by coefficients (R95, R96). -/
theorem State.windowChannel_spec {s : State} {hf : Half} {c : Chan} {xs : List Int} {ks : List F32}
    (hC : c.toNat < s.acqC.toNat) (hlen : xs.length = s.acqS.toNat) (hx : s.Samples hf c 0 xs)
    (hks : ks.length = s.acqS.toNat) :
    ∃ t, s.windowChannel hf c.toNat ks = .next t ∧
      t = { s with ring := t.ring, drawTape := t.drawTape, drawCount := t.drawCount, rc := .ok } ∧
      (∀ n v, n < s.acqS.toNat → F32.trunc (F32.mul (F32.ofInt (xs.getD n 0)) (ks.getD n 0)) = some v →
        -(2 ^ (s.width - 1)) ≤ v → v < 2 ^ (s.width - 1) → t.sample? hf n c.toNat = some v) ∧
      ∀ a, ¬s.InChannel hf c a → Memory.read unwritten t.ring a = Memory.read unwritten s.ring a := by
  obtain ⟨tape, m, hd⟩ := s.hmulAll_snd xs ks
  have hvlen : (s.hmulAll xs ks).1.length = s.acqS.toNat := by rw [State.hmulAll_length, hlen, hks, Nat.min_self]
  obtain ⟨heq, hin, hout⟩ := State.setSamples_channel (hf := hf) hC hvlen
  refine ⟨{ (s.setSamples hf c.toNat 0 (s.hmulAll xs ks).1).withDraws tape m with rc := .ok }, ?_, ?_, ?_, hout⟩
  · rw [State.windowChannel, State.withSamples hlen hx, hd, State.setSamples_withDraws]
    rfl
  · rw [heq]; rfl
  · intro n v hn hv hlo hhi
    have hget := State.hmulAll_getElem? (by omega) (by omega) hv hlo hhi
    obtain ⟨hlt, hval⟩ := List.getElem?_eq_some_iff.mp hget
    refine (hin n hlt).trans ?_
    rw [hval, State.bmod_of_inRange hlo hhi]

/-- Settles O18: both commands are one multiplication of the channel, by different coefficients. -/
theorem windowsMultiplyTheChannel : Obligations.WindowsMultiplyTheChannel := by
  intro s h c
  refine ⟨fun hbad => ?_, fun hf hn hlen hshort => ?_, fun hf xs ks i hn hlen hx hks hcmd => ?_⟩
  · have hnone := State.channelHalf_eq_none.mpr hbad
    refine ⟨?_, fun hlen => ?_⟩
    · rw [exec_hannDirect, execHannDirect, hnone]; rfl
    · rw [exec_hannApply, execHannApply, if_neg hlen, hnone]; rfl
  · rw [exec_hannApply, execHannApply, if_neg hlen, State.channelHalf_eq_some.mpr hn]
    exact if_pos hshort
  · have hrun : exec i s = s.windowChannel hf c.toNat ks := by
      rcases hcmd with ⟨rfl, rfl⟩ | ⟨rfl, hne, hfit, hbytes⟩
      · rw [exec_hannDirect, execHannDirect, State.channelHalf_eq_some.mpr hn]
      · have hcoefs : s.coefs? 0 s.acqS.toNat = some ks :=
          State.coefs?_of_bytes hks fun k hk => by rw [Nat.zero_add]; exact hbytes k hk
        rw [exec_hannApply, execHannApply, if_neg hne, State.channelHalf_eq_some.mpr hn]
        simp only [if_neg (Nat.not_lt.mpr hfit), hcoefs, State.withData_some]
    rw [hrun]
    exact State.windowChannel_spec hn.1 hlen hx hks

/-! ### IIR filters (R97–R109) -/

/-- Settles O19: the design of R99 is the values the statement names. -/
theorem biquadInitsFillTheSlot : Obligations.BiquadInitsFillTheSlot := by
  intro s j w0 w1 w2 h0 h1 h2
  have hinit : ∀ shape, s.biquadInit j shape =
      .next { s.setBq j (shape (biquadDesign (f64 w0) (f64 w1) (f64 w2))) with rc := .ok } := fun shape => by
    rw [State.biquadInit, State.withArg_of_hasArg h0, State.withArg_of_hasArg h1, State.withArg_of_hasArg h2]; rfl
  refine ⟨?_, fun w3 w4 h3 h4 => ?_⟩
  · rintro ts fc bw om bwo sn cs al sc m2c a2v rfl rfl rfl rfl rfl rfl rfl rfl rfl rfl rfl
    exact ⟨hinit _, hinit _, hinit _⟩
  · rw [exec_bqLoad, execBqLoad, State.withArg_of_hasArg h0, State.withArg_of_hasArg h1, State.withArg_of_hasArg h2,
      State.withArg_of_hasArg h3, State.withArg_of_hasArg h4]
    rfl

/-- Settles O20: an initialised slot computes its output and shifts its lines. -/
theorem filterStepsComputeTheRecurrence : Obligations.FilterStepsComputeTheRecurrence := by
  intro s j x hx
  refine ⟨?_, ?_, ?_⟩
  · rintro f y rfl hinit rfl
    rw [exec_bqStep, execBqStep, State.withArg_of_hasArg hx]
    exact if_pos hinit
  · rintro f y rfl hinit rfl
    rw [exec_emaStep, execEmaStep, State.withArg_of_hasArg hx]
    exact if_pos hinit
  · rintro f am8 num y rfl hinit rfl rfl rfl
    rw [exec_notchStep, execNotchStep, State.withArg_of_hasArg hx]
    exact if_pos hinit

/-- Settles O21: each init stores the coefficients it computes and a zeroed state. -/
theorem emaAndNotchInitsFillTheSlot : Obligations.EmaAndNotchInitsFillTheSlot := by
  intro s j w0 h0
  refine ⟨?_, fun w1 h1 => ⟨?_, fun w2 h2 => ?_⟩⟩
  · rw [exec_emaInitAlpha, execEmaInitAlpha, State.withArg_of_hasArg h0]; rfl
  · rintro cw a b c rfl rfl rfl rfl
    rw [exec_emaInitFc, execEmaInitFc, State.withArg_of_hasArg h0, State.withArg_of_hasArg h1]; rfl
  · rintro fc width ts om omp rfl rfl rfl rfl rfl
    rw [exec_notchInit, execNotchInit, State.withArg_of_hasArg h0, State.withArg_of_hasArg h1, State.withArg_of_hasArg h2]
    rfl

/-! ### Uninitialised units -/

/-- A query of an uninitialised circular-buffer slot (R118–R121, R126, R127). -/
theorem State.cbQuery_notInit {s : State} {j : Slot} (h0 : s.args[(0 : Fin 8)].written = true) (hlen : (s.cbSlot j).len = 0)
    (value : CircBuf → Nat → F32) : s.cbQuery j value = .next { s with rc := .notInit } := by
  rw [State.cbQuery, State.withArg_of_written h0]
  exact if_pos hlen

theorem exec_eq_cbQuery {i : Instr} {j : Slot} (s : State)
    (hi : i ∈ [Instr.cbMean j, .cbMax j, .arrMax j, .arrMin j, .arrSum j, .arrMean j]) :
    ∃ value, exec i s = s.cbQuery j value := by
  simp only [List.mem_cons, List.not_mem_nil, or_false] at hi
  rcases hi with rfl | rfl | rfl | rfl | rfl | rfl
  · exact ⟨_, exec_cbMean s j⟩
  · exact ⟨_, exec_cbMax s j⟩
  · exact ⟨_, exec_arrMax s j⟩
  · exact ⟨_, exec_arrMin s j⟩
  · exact ⟨_, exec_arrSum s j⟩
  · exact ⟨_, exec_arrMean s j⟩

/-- A step of an uninitialised moving average (R130–R132). -/
theorem State.maStep_notInit {s : State} {j : Slot} (h0 : s.args[(0 : Fin 8)].written = true)
    (hlen : (s.maSlot j).cb.len = 0) (value : MovAvg → F32) : s.maStep j value = .next { s with rc := .notInit } := by
  rw [State.maStep, State.withArg_of_written h0]
  exact if_pos hlen

/-- Settles O22: each command tests its unit right after its first operand. -/
theorem uninitialisedUnitsAnswerNotInit : Obligations.UninitialisedUnitsAnswerNotInit := by
  intro s j h c f0
  refine ⟨fun hl => ?_, fun hl => ?_, fun h0 => ⟨fun hi => ?_, fun hi => ?_, fun hi => ?_, fun hl => ?_, fun hl => ?_,
    fun hn => ?_, fun hl => ?_⟩⟩
  · exact if_pos hl
  · exact if_pos hl
  · rw [exec_bqStep, execBqStep, State.withArg_of_written h0]; simp [hi]
  · rw [exec_emaStep, execEmaStep, State.withArg_of_written h0]; simp [hi]
  · rw [exec_notchStep, execNotchStep, State.withArg_of_written h0]; simp [hi]
  · have hpush : exec (.cbPush j) s = .next { s with rc := .notInit } := by
      rw [exec_cbPush, execCbPush, State.withArg_of_written h0]; exact if_pos hl
    have hget : exec (.cbGet j) s = .next { s with rc := .notInit } := by
      rw [exec_cbGet, execCbGet, State.withArg_of_written h0]; exact if_pos hl
    refine List.forall_mem_cons.mpr ⟨hpush, List.forall_mem_cons.mpr ⟨hget, fun i hi => ?_⟩⟩
    obtain ⟨value, hquery⟩ := exec_eq_cbQuery s hi
    exact hquery.trans (State.cbQuery_notInit h0 hl value)
  · have hstep := fun value => State.maStep_notInit h0 hl value
    simp only [List.forall_mem_cons]
    exact ⟨(exec_maMean s j).trans (hstep _), (exec_maVar s j).trans (hstep _), (exec_maStd s j).trans (hstep _), nofun⟩
  · rw [exec_gzFeed, execGzFeed, State.withArg_of_written h0]; exact if_pos hn
  · rw [exec_fftAbsMax, execFftAbsMax, State.withArg_of_written h0]; exact if_pos hl

end Sys2Proof.Machine
end


section
/-! Proofs of the circular-buffer, array and moving-average statements (R117–R132). -/

namespace Sys2Proof.Machine

-- Many short elaborations at once would start a thread each.
set_option Elab.async false

/-! ### Commands on a slot (R122–R124) -/

/-- Settles O27: each command is one test of its operand. -/
theorem circularBufferCommands : Obligations.CircularBufferCommands := by
  intro s j x hx
  have hinit : exec (.cbInit j) s = execCbInit j s := rfl
  rw [execCbInit, State.withArg_of_hasArg hx] at hinit
  refine ⟨fun hbad => hinit.trans (if_pos hbad), fun h1 hmax => hinit.trans (if_neg ?_), ?_⟩
  · simp only [u32]; omega
  · rintro b rfl hlen
    refine ⟨?_, fun hold => ?_, fun hage => ?_⟩
    · rw [exec_cbPush, execCbPush, State.withArg_of_hasArg hx]; exact if_neg hlen
    · rw [exec_cbGet, execCbGet, State.withArg_of_hasArg hx]; exact (if_neg hlen).trans (if_pos hold)
    · rw [exec_cbGet, execCbGet, State.withArg_of_hasArg hx]
      exact (if_neg hlen).trans (if_neg (Nat.not_le.mpr hage))

/-! ### Ages (R35, R123–R125) -/

/-- An index that has gone at most once around. -/
theorem mod_of_lt_two_mul {a n : Nat} (h : a < 2 * n) : a % n = if a < n then a else a - n := by
  split
  · exact Nat.mod_eq_of_lt ‹_›
  · rw [Nat.mod_eq_sub_mod (by omega), Nat.mod_eq_of_lt (by omega)]

section ages

variable {b : CircBuf} {cap : Nat}

theorem CircBuf.Ok.idx_lt (hok : b.Ok cap) (hlen : b.len ≠ 0) : b.idx < b.len ∧ b.len ≤ b.buf.length := by
  obtain ⟨hbuf, hcap, hidx⟩ := hok
  exact ⟨hidx.resolve_left hlen, hbuf ▸ hcap⟩

theorem CircBuf.at_push (x : F32) (k : Nat) (hidx : b.idx < b.buf.length) :
    (b.push x).at k = if b.idx = k then x else b.at k := by
  simp only [CircBuf.at, CircBuf.push, List.getD_eq_getElem?_getD, List.getElem?_set]
  by_cases hk : b.idx = k
  · simp [hk, hk ▸ hidx]
  · simp [hk]

/-- The element of an age, with the wrap written out. -/
theorem CircBuf.byAge_eq {k : Nat} (hidx : b.idx < b.len) (hk : k < b.len) :
    b.byAge k = if b.idx + k < b.len then b.at (b.idx + k) else b.at (b.idx + k - b.len) := by
  rw [CircBuf.byAge, mod_of_lt_two_mul (by omega)]
  split <;> rfl

theorem CircBuf.byAge_push (x : F32) (k : Nat) (b : CircBuf) : (b.push x).byAge k = (b.push x).at ((b.idx + (k + 1)) % b.len) := by
  simp only [CircBuf.byAge, CircBuf.push, Nat.mod_add_mod]
  rw [Nat.add_right_comm, Nat.add_assoc]

end ages

/-- Settles O28: the oldest element is overwritten, and the index moves past it. -/
theorem pushMakesEveryElementOlder : Obligations.PushMakesEveryElementOlder := by
  intro b cap x hok hlen
  obtain ⟨hidx, hbuf⟩ := hok.idx_lt hlen
  have hin : b.idx < b.buf.length := by omega
  refine ⟨CircBuf.push_ok hok hlen x, rfl, ?_, fun k hk => ?_⟩
  · rw [CircBuf.byAge_push, CircBuf.at_push x _ hin, Nat.sub_add_cancel (by omega), Nat.add_mod_right,
      Nat.mod_eq_of_lt hidx, if_pos rfl]
  · rw [CircBuf.byAge_push, CircBuf.at_push x _ hin, if_neg, CircBuf.byAge]
    rw [mod_of_lt_two_mul (by omega)]
    split <;> omega

/-! ### Windows (R117–R121, R125–R127) -/

theorem CircBuf.slice_length (b : CircBuf) (lo hi : Nat) : (b.slice lo hi).length = hi - lo := by
  rw [CircBuf.slice, List.length_map, List.length_range]

theorem CircBuf.slice_zero_eq_take {b : CircBuf} {n : Nat} (hn : n ≤ b.buf.length) : b.slice 0 n = b.buf.take n := by
  refine List.ext_getElem (by rw [CircBuf.slice_length, List.length_take]; omega) fun k hk _ => ?_
  rw [CircBuf.slice_length] at hk
  simp only [CircBuf.slice, List.getElem_map, List.getElem_range, List.getElem_take, CircBuf.at, Nat.zero_add]
  exact List.getD_eq_getElem _ _ _

/-- A slice is a run of ages, where the ages do not wrap in it. -/
theorem CircBuf.slice_eq_byAge {b : CircBuf} {lo m k : Nat} (h : ∀ i, i < m → (b.idx + (k + i)) % b.len = lo + i) :
    b.slice lo (lo + m) = (List.range m).map fun i => b.byAge (k + i) := by
  rw [CircBuf.slice, Nat.add_sub_cancel_left]
  refine List.map_congr_left fun i hi => ?_
  rw [CircBuf.byAge, h i (List.mem_range.mp hi)]

/-- The newest elements in one segment. -/
theorem CircBuf.window_one {b : CircBuf} {n : Nat} (h : n ≤ b.idx ∨ b.idx = 0) :
    b.window n = (b.slice ((b.idx + b.len - n) % b.len) ((b.idx + b.len - n) % b.len + n), none) := if_pos h

/-- The newest elements where they wrap. -/
theorem CircBuf.window_two {b : CircBuf} {n : Nat} (h : ¬(n ≤ b.idx ∨ b.idx = 0)) :
    b.window n = (b.slice ((b.idx + b.len - n) % b.len) b.len, some (b.slice 0 b.idx)) := if_neg h

/-- Settles O30: the window starts n elements before the index, and wraps at the length. -/
theorem windowIsTheNewestElements : Obligations.WindowIsTheNewestElements := by
  intro b cap n hok hlen h1 hn
  obtain ⟨hidx, hbuf⟩ := hok.idx_lt hlen
  have hstart := mod_of_lt_two_mul (a := b.idx + b.len - n) (n := b.len) (by omega)
  refine ⟨?_, ?_, CircBuf.slice_zero_eq_take (by omega)⟩
  · by_cases hone : n ≤ b.idx ∨ b.idx = 0
    · rw [CircBuf.window_one hone, Option.getD_none, List.append_nil]
      refine CircBuf.slice_eq_byAge fun i hi => ?_
      rw [hstart]
      by_cases hwrap : b.idx + (b.len - n + i) < b.len
      · rw [Nat.mod_eq_of_lt hwrap, if_pos (by omega)]; omega
      · rw [mod_of_lt_two_mul (by omega), if_neg hwrap]
        split <;> omega
    · have hlow : (b.idx + b.len - n) % b.len = b.idx + b.len - n := by rw [hstart, if_pos (by omega)]
      have hfirst : b.slice (b.idx + b.len - n) (b.idx + b.len - n + (n - b.idx)) =
          (List.range (n - b.idx)).map fun i => b.byAge (b.len - n + i) :=
        CircBuf.slice_eq_byAge fun i hi => by rw [Nat.mod_eq_of_lt (by omega)]; omega
      have hsecond : b.slice 0 (0 + b.idx) = (List.range b.idx).map fun i => b.byAge (b.len - n + (n - b.idx) + i) :=
        CircBuf.slice_eq_byAge fun i hi => by rw [mod_of_lt_two_mul (by omega), if_neg (by omega)]; omega
      have hsplit : List.range n = List.range (n - b.idx) ++ (List.range b.idx).map (n - b.idx + ·) := by
        rw [← List.range_add]; congr 1; omega
      rw [Nat.zero_add] at hsecond
      rw [show b.idx + b.len - n + (n - b.idx) = b.len by omega] at hfirst
      rw [CircBuf.window_two hone, hlow, Option.getD_some, hfirst, hsecond, hsplit, List.map_append, List.map_map]
      congr 1
      exact List.map_congr_left fun i _ => congrArg b.byAge (Nat.add_assoc _ _ _)
  · by_cases hone : n ≤ b.idx ∨ b.idx = 0
    · rw [CircBuf.window_one hone]; simp [hone]
    · rw [CircBuf.window_two hone]; simp [hone]

/-- A one-segment window has the elements asked for. -/
theorem CircBuf.window_length {b : CircBuf} {n : Nat} {seg : List F32} (h : b.window n = (seg, none)) : seg.length = n := by
  by_cases hone : n ≤ b.idx ∨ b.idx = 0
  · rw [CircBuf.window_one hone] at h
    cases h
    rw [CircBuf.slice_length, Nat.add_sub_cancel_left]
  · rw [CircBuf.window_two hone] at h
    cases h

/-- A query of an initialised slot (R118–R121, R126, R127). -/
theorem State.cbQuery_eq {s : State} {j : Slot} {n : Word} (hn : s.HasArg 0 n) (hlen : (s.cbSlot j).len ≠ 0)
    (value : CircBuf → Nat → F32) :
    (n.toNat = 0 ∨ (s.cbSlot j).len < n.toNat → s.cbQuery j value = .next { s with rc := .arg }) ∧
      (1 ≤ n.toNat → n.toNat ≤ (s.cbSlot j).len →
        s.cbQuery j value = .next { s.setRes 0 (value (s.cbSlot j) n.toNat) with rc := .ok }) := by
  rw [State.cbQuery, State.withArg_of_hasArg hn]
  refine ⟨fun hbad => (if_neg hlen).trans (if_pos hbad), fun h1 hle => (if_neg hlen).trans (if_neg ?_)⟩
  simp only [u32]
  omega

/-- Settles O29: all six are one query with its own value. -/
theorem slotQueriesReturnTheirValue : Obligations.SlotQueriesReturnTheirValue := by
  rintro s j n b hn rfl hlen
  refine ⟨fun hbad i hi => ?_, fun h1 hle => ?_⟩
  · obtain ⟨value, hquery⟩ := exec_eq_cbQuery s hi
    exact hquery.trans ((State.cbQuery_eq hn hlen value).1 hbad)
  · have hval := fun value => (State.cbQuery_eq hn hlen value).2 h1 hle
    have hslice : ((s.cbSlot j).slice 0 n.toNat).length = n.toNat := CircBuf.slice_length ..
    refine ⟨(exec_arrMax s j).trans (hval _), (exec_arrMin s j).trans (hval _), (exec_arrSum s j).trans (hval _), ?_,
      fun seg hw => ⟨?_, ?_⟩, fun seg1 seg2 hw => ⟨?_, ?_⟩⟩
    · rw [exec_arrMean, execArrMean, hval, rmean, hslice]; rfl
    · rw [exec_cbMean, execCbMean, hval, hw, windowMean, rmean, CircBuf.window_length hw]; rfl
    · rw [exec_cbMax, execCbMax, hval, hw]; rfl
    · rw [exec_cbMean, execCbMean, hval, hw]; rfl
    · rw [exec_cbMax, execCbMax, hval, hw]; rfl

/-! ### Moving average (R128–R132) -/

/-- A step of an initialised moving average (R129–R132). -/
theorem State.maStep_eq {s : State} {j : Slot} {x : Word} (hx : s.HasArg 0 x) (hlen : (s.maSlot j).cb.len ≠ 0)
    (value : MovAvg → F32) :
    s.maStep j value =
      .next { (s.setMa j ((s.maSlot j).push x)).setRes 0 (value ((s.maSlot j).push x)) with rc := .ok } := by
  rw [State.maStep, State.withArg_of_hasArg hx]
  exact if_neg hlen

/-- Settles O31: the three steps push the same way and differ in the value they return. -/
theorem movingAverageCommands : Obligations.MovingAverageCommands := by
  intro s j x hx
  have hinit : exec (.maInit j) s = execMaInit j s := rfl
  rw [execMaInit, State.withArg_of_hasArg hx] at hinit
  refine ⟨fun hbad => hinit.trans (if_pos hbad), fun h2 hmax => hinit.trans (if_neg ?_), ?_⟩
  · simp only [u32]; omega
  · rintro m m' xo sum' mean' varSum' rfl hlen rfl rfl rfl rfl rfl
    exact ⟨(exec_maMean s j).trans (State.maStep_eq hx hlen _), (exec_maVar s j).trans (State.maStep_eq hx hlen _),
      (exec_maStd s j).trans (State.maStep_eq hx hlen _)⟩

end Sys2Proof.Machine
end


section
/-! Proofs of the Goertzel, FFT and CRC statements (R110–R116, R133–R138). -/

namespace Sys2Proof.Machine

-- Many short elaborations at once would start a thread each.
set_option Elab.async false

/-! ### `GZ_INIT` (R110) -/

/-- A pattern with all bits but the sign 0 is a zero. -/
theorem FloatFormat.unpack_of_mod_signBit {f : FloatFormat} {n : Nat} (h : n % f.signBit = 0) :
    f.unpack n = .inf (n / f.signBit % 2 == 1) ∨ f.unpack n = .fin (n / f.signBit % 2 == 1) 0 f.emin := by
  rw [FloatFormat.signBit, Nat.pow_add, Nat.mod_mul] at h
  have hfr : n % 2 ^ (f.prec - 1) = 0 := by omega
  have hex : n / 2 ^ (f.prec - 1) % 2 ^ f.ebits = 0 := by
    rw [hfr, Nat.zero_add] at h
    exact (Nat.mul_eq_zero.mp h).resolve_left (by positivity)
  simp only [FloatFormat.unpack, hfr, hex, if_true]
  split
  · exact .inl rfl
  · exact .inr rfl

/-- The sign of a finite pattern is its sign bit. -/
theorem FloatFormat.unpack_sign {f : FloatFormat} {n m : Nat} {neg : Bool} {e : Int} (h : f.unpack n = .fin neg m e) :
    neg = (n / f.signBit % 2 == 1) := by
  simp only [FloatFormat.unpack] at h
  split at h
  · split at h <;> cases h
  · split at h <;> cases h <;> rfl

/-- A pattern that is not below 0 has an integer part that is not. -/
theorem FloatFormat.trunc_nonneg {f : FloatFormat} {n : Nat} {k : Int} (hkey : 0 ≤ f.orderKey n) (hk : f.trunc n = some k) :
    0 ≤ k := by
  unfold FloatFormat.trunc at hk
  cases hu : f.unpack n with
  | nan => rw [hu] at hk; cases hk
  | inf neg => rw [hu] at hk; cases hk
  | fin neg m e =>
    rw [hu] at hk
    cases hk
    cases hneg : neg with
    | false => exact Int.natCast_nonneg _
    | true =>
      have hsign : n / f.signBit % 2 = 1 := by
        have := FloatFormat.unpack_sign hu
        rw [hneg] at this
        simpa using this.symm
      have hmag : n % f.signBit = 0 := by
        rw [FloatFormat.orderKey, if_pos hsign] at hkey
        omega
      have hm : m = 0 := by
        rcases FloatFormat.unpack_of_mod_signBit hmag with h | h
        · rw [hu] at h; cases h
        · rw [hu] at h; cases h; rfl
      simp [hm]

theorem F64.trunc_nonneg {a : F64} {k : Int} (hnan : F64.isNan a = false) (hlt : F64.lt a 0 = false)
    (hk : F64.trunc a = some k) : 0 ≤ k := by
  refine FloatFormat.trunc_nonneg (f := binary64) ?_ hk
  have hzero : binary64.isNan 0 = false ∧ binary64.orderKey 0 = 0 := by decide
  rw [F64.isNan] at hnan
  simpa [F64.lt, FloatFormat.lt, hnan, hzero] using hlt

/-- An unusable bin value (R110). -/
theorem goertzelBin_none {kr : F64} (h : F64.isNan kr = true ∨ F64.lt kr 0 = true ∨ F64.lt kr F64.two32 = false) :
    goertzelBin kr = none := by
  refine if_pos ?_
  simp only [Bool.or_eq_true_iff, Bool.not_eq_true']
  exact or_assoc.mpr h

/-- A usable one. -/
theorem goertzelBin_some {kr : F64} {k : Int} (hnan : F64.isNan kr = false) (hneg : F64.lt kr 0 = false)
    (hbig : F64.lt kr F64.two32 = true) (hk : F64.trunc kr = some k) : goertzelBin kr = some k.toNat := by
  rw [goertzelBin, if_neg (by rw [hnan, hneg, hbig]; decide), hk]

/-- Settles O23: the bin test is the statement's, and the bin is its integer part. -/
theorem goertzelInitSetsTheConstants : Obligations.GoertzelInitSetsTheConstants := by
  rintro s w0 w1 w2 w3 w4 n w6 kr h0 h1 h2 h3 h4 h5 h6 hkr
  replace hkr : goertzelKr (u32 n) (f64 w3) (f64 w4) = kr := hkr.symm
  have hrun : exec .gzInit s = execGzInit s := rfl
  rw [execGzInit, State.withArg_of_hasArg h0, State.withArg_of_hasArg h1, State.withArg_of_hasArg h2,
    State.withArg_of_hasArg h3, State.withArg_of_hasArg h4, State.withArg_of_hasArg h5, State.withArg_of_hasArg h6, hkr]
    at hrun
  have hzero : u32 n = 0 ↔ n = 0 := BitVec.toNat_inj (y := 0#32)
  refine ⟨fun hbad => ?_, fun k w hn hnan hneg hbig hk hw => ?_⟩
  · rw [hrun]
    by_cases hn : n = 0
    · exact if_pos (hzero.mpr hn)
    · rw [if_neg (mt hzero.mp hn), goertzelBin_none (hbad.resolve_left hn)]
      rfl
  · have hcast : ((k.toNat : Nat) : Int) = k := Int.toNat_of_nonneg (F64.trunc_nonneg hnan hneg hk)
    rw [hrun, if_neg (mt hzero.mp hn), goertzelBin_some hnan hneg hbig hk, hw, ← hcast]
    rfl

/-! ### `GZ_FEED` (R111, R112) -/

/-- A sample that ends a block. -/
theorem Goertzel.sample_of_full {g : Goertzel} (h : g.cnt + 1 = g.n) (x : Int) :
    g.sample x = ({ g.recur x with mag := (g.recur x).magnitude, q0 := 0, q1 := 0, q2 := 0, cnt := 0 }, true) := if_pos h

/-- A sample inside a block. -/
theorem Goertzel.sample_of_open {g : Goertzel} (h : ¬g.cnt + 1 = g.n) (x : Int) : g.sample x = (g.recur x, false) := if_neg h

/-- One sample is the step of R111. -/
theorem Goertzel.sample_step (g : Goertzel) (x : Int) : GoertzelStep x g (g.sample x).1 := by
  rintro q rfl
  by_cases hfull : g.cnt + 1 = g.n
  · rw [if_pos hfull]
    rintro re im rfl rfl
    rw [Goertzel.sample_of_full hfull]
    rfl
  · rw [if_neg hfull, Goertzel.sample_of_open hfull]
    rfl

/-- The constants of a detector (R110): what a feed keeps. -/
def Goertzel.SameConstants (g g' : Goertzel) : Prop :=
  g' = { g with cnt := g'.cnt, q0 := g'.q0, q1 := g'.q1, q2 := g'.q2, mag := g'.mag }

theorem Goertzel.sample_constants (g : Goertzel) (x : Int) : g.SameConstants (g.sample x).1 := by
  unfold Goertzel.SameConstants
  by_cases hfull : g.cnt + 1 = g.n
  · rw [Goertzel.sample_of_full hfull]; rfl
  · rw [Goertzel.sample_of_open hfull]; rfl

theorem Goertzel.feed_constants (g : Goertzel) (xs : List Int) : g.SameConstants (g.feed xs).1 := by
  induction xs generalizing g with
  | nil => rfl
  | cons x xs ih =>
    have hx := g.sample_constants x
    have hxs := ih (g.sample x).1
    unfold Goertzel.SameConstants at hx hxs ⊢
    rw [Goertzel.feed, hxs, hx]

theorem Goertzel.sample_mag {g : Goertzel} (h : g.cnt.toNat + 1 < g.n.toNat) (x : Int) :
    (g.sample x).1.mag = g.mag := by
  have hne : ¬g.cnt + 1 = g.n := fun he => by
    have := Goertzel.cnt_succ_toNat (g := g) (by omega)
    have heq : (g.cnt + 1).toNat = g.n.toNat := congrArg BitVec.toNat he
    omega
  rw [Goertzel.sample_of_open hne]
  rfl

/-- The counter, the report and the magnitude of a feed, by the number of samples (R112). -/
theorem Goertzel.feed_counts {g : Goertzel} (h : g.cnt.toNat < g.n.toNat) (xs : List Int) :
    (g.feed xs).1.cnt.toNat = (g.cnt.toNat + xs.length) % g.n.toNat ∧
      ((g.feed xs).2 = true ↔ g.n.toNat ≤ g.cnt.toNat + xs.length) ∧
      (g.cnt.toNat + xs.length < g.n.toNat → (g.feed xs).1.mag = g.mag) := by
  induction xs generalizing g with
  | nil => exact ⟨(Nat.mod_eq_of_lt h).symm, by simpa [Goertzel.feed] using h, fun _ => rfl⟩
  | cons x xs ih =>
    obtain ⟨hcnt, hflag⟩ := Goertzel.sample_cnt h x
    obtain ⟨icnt, iflag, imag⟩ := ih (Goertzel.sample_cnt_lt h x)
    rw [Goertzel.sample_n, hcnt] at icnt iflag imag
    have hlen : (x :: xs).length = xs.length + 1 := rfl
    refine ⟨?_, ?_, fun hlt => ?_⟩
    · rw [Goertzel.feed, icnt, hlen]
      split
      · rename_i hfull
        rw [show g.cnt.toNat + (xs.length + 1) = xs.length + g.n.toNat by omega, Nat.add_mod_right, Nat.zero_add]
      · congr 1; omega
    · rw [Goertzel.feed, Bool.or_eq_true_iff, iflag, hflag, hlen]
      split <;> omega
    · rw [hlen] at hlt
      rw [if_neg (by omega)] at imag
      rw [Goertzel.feed, imag (by omega), Goertzel.sample_mag (by omega)]

/-- The detectors a feed passes through. -/
def Goertzel.passes (g : Goertzel) : List Int → List Goertzel
  | [] => [g]
  | x :: xs => g :: (g.sample x).1.passes xs

theorem Goertzel.passes_head (g : Goertzel) (xs : List Int) : (g.passes xs)[0]? = some g := by cases xs <;> rfl

theorem Goertzel.passes_length (g : Goertzel) (xs : List Int) : (g.passes xs).length = xs.length + 1 := by
  induction xs generalizing g with
  | nil => rfl
  | cons x xs ih => rw [Goertzel.passes, List.length_cons, ih]; rfl

theorem Goertzel.passes_last (g : Goertzel) (xs : List Int) : (g.passes xs)[xs.length]? = some (g.feed xs).1 := by
  induction xs generalizing g with
  | nil => rfl
  | cons x xs ih => exact ih (g.sample x).1

theorem Goertzel.passes_step {g u v : Goertzel} {xs : List Int} {k : Nat} (hu : (g.passes xs)[k]? = some u)
    (hv : (g.passes xs)[k + 1]? = some v) : GoertzelStep (xs.getD k 0) u v := by
  induction xs generalizing g k with
  | nil => cases hv
  | cons x xs ih =>
    rw [Goertzel.passes, List.getElem?_cons_succ] at hv
    cases k with
    | zero =>
      rw [Goertzel.passes_head] at hv
      cases hu
      cases hv
      exact Goertzel.sample_step _ x
    | succ k => exact ih hu hv

/-- Settles O24: a feed is the samples' steps one after another. -/
theorem goertzelFeedCountsBlocks : Obligations.GoertzelFeedCountsBlocks := by
  intro s h c m hm hn
  have hrun : exec (.gzFeed h c) s = execGzFeed h c s := rfl
  rw [execGzFeed, State.withArg_of_hasArg hm] at hrun
  replace hrun := hrun.trans (if_neg hn)
  refine ⟨fun hbad => ?_, fun hf xs hcnt hnames hle hlen hx => ?_⟩
  · rw [hrun]
    cases hhalf : s.channelHalf h c with
    | none => rfl
    | some hf =>
      have hnone : ¬(s.resolveHalf h = none ∨ s.acqC.toNat ≤ c.toNat) := fun hno => by
        rw [State.channelHalf_eq_none.mpr hno] at hhalf; cases hhalf
      exact if_pos (by simpa [u32] using (or_assoc.mpr hbad).resolve_left hnone)
  · obtain ⟨hcount, hflag, hmag⟩ := Goertzel.feed_counts hcnt xs
    rw [hlen] at hcount hflag hmag
    rw [State.channelHalf_eq_some.mpr hnames] at hrun
    have hdata := hrun.trans ((if_neg (show ¬s.acqS.toNat < u32 m from Nat.not_lt.mpr hle)).trans
      (State.withSamples hlen hx _))
    have hsteps := fun k g g' => Goertzel.passes_step (g := s.gz) (xs := xs) (k := k) (u := g) (v := g')
    have hall : ∀ t : State, t.gz = (s.gz.feed xs).1 →
        t.gz = { s.gz with cnt := t.gz.cnt, q0 := t.gz.q0, q1 := t.gz.q1, q2 := t.gz.q2, mag := t.gz.mag } ∧
        t.gz.cnt.toNat = (s.gz.cnt.toNat + m.toNat) % s.gz.n.toNat ∧
        (m = 0 → t.gz = s.gz) ∧
        (∀ x, xs = [x] → GoertzelStep x s.gz t.gz) ∧
        (∃ gs : List Goertzel, gs.length = xs.length + 1 ∧ gs[0]? = some s.gz ∧ gs[xs.length]? = some t.gz ∧
          ∀ k g g', gs[k]? = some g → gs[k + 1]? = some g' → GoertzelStep (xs.getD k 0) g g') ∧
        (s.gz.cnt.toNat + m.toNat < s.gz.n.toNat → t.gz.mag = s.gz.mag) := by
      intro t ht
      rw [ht]
      refine ⟨s.gz.feed_constants xs, hcount, fun hm0 => ?_, fun x hx1 => ?_,
        ⟨s.gz.passes xs, s.gz.passes_length xs, s.gz.passes_head xs, s.gz.passes_last xs, hsteps⟩, hmag⟩
      · rw [List.eq_nil_of_length_eq_zero (hlen.trans (by rw [hm0]; rfl))]; rfl
      · rw [hx1]; exact s.gz.sample_step x
    by_cases hdone : s.gz.n.toNat ≤ s.gz.cnt.toNat + m.toNat
    · obtain ⟨h1, h2, h3, h4, h5, h6⟩ := hall { (s.setRes 0 1).setRes 1 (s.gz.feed xs).1.mag with gz := (s.gz.feed xs).1, rc := .ok } rfl
      refine ⟨_, hdata.trans (if_pos (hflag.mpr hdone)), h1, h2, h3, h4, h5, h6, ?_⟩
      rw [if_pos hdone]
      rfl
    · obtain ⟨h1, h2, h3, h4, h5, h6⟩ := hall { s.setRes 0 0 with gz := (s.gz.feed xs).1, rc := .ok } rfl
      refine ⟨_, hdata.trans (if_neg (mt hflag.mp hdone)), h1, h2, h3, h4, h5, h6, ?_⟩
      rw [if_neg hdone]
      rfl

/-! ### FFT (R113–R116) -/

/-- Settles O25: the table is the transform's values, one after another. -/
theorem fftInitAndRun : Obligations.FftInitAndRun := by
  refine ⟨fun s n hn => ?_, fun s h c hlen => ⟨fun hbad => ?_, fun hf xs hnames hw hS hxs hx => ?_⟩⟩
  · have hrun : exec .fftInit s = execFftInit s := rfl
    rw [execFftInit, State.withArg_of_hasArg hn] at hrun
    refine ⟨fun hbad => hrun.trans (if_neg hbad), fun hok => ⟨_, hrun.trans (if_pos hok), rfl, fun a ha => ?_, fun a ha => ?_⟩⟩
    · change Memory.read unwritten (s.tab.clearRange 0 (4 * n.toNat)) a = none
      rw [Memory.read_clearRange, if_pos (by omega)]
      rfl
    · change Memory.read unwritten (s.tab.clearRange 0 (4 * n.toNat)) a = _
      rw [Memory.read_clearRange, if_neg (by omega)]
  · rw [exec_fftRun, execFftRun, if_neg hlen]
    cases hhalf : s.channelHalf h c with
    | none => rfl
    | some hf =>
      have hnone : ¬(s.resolveHalf h = none ∨ s.acqC.toNat ≤ c.toNat) := fun hno => by
        rw [State.channelHalf_eq_none.mpr hno] at hhalf; cases hhalf
      exact if_pos ((or_assoc.mpr hbad).resolve_left hnone)
  · have hok : ¬(s.w32 = true ∨ s.acqS.toNat < s.fftLen.toNat) := by rw [hw]; simp only [Bool.false_eq_true, false_or]; omega
    refine ⟨{ s.setRes 0 0x210000 with
        tab := Memory.setRange unwritten s.tab 0 (int16Bytes (fftFn s.fftLen.toNat (xs.map (BitVec.ofInt 16)))), rc := .ok },
      ?_, rfl, fun k hk => ?_, fun a ha => ?_⟩
    · rw [exec_fftRun, execFftRun, if_neg hlen, State.channelHalf_eq_some.mpr hnames]
      exact (if_neg hok).trans (State.withSamples hxs hx _)
    · exact Memory.readBytes_setRange_entry _ _ (fun _ => leBytes_length 2 _)
        (by rw [fftFn, List.getElem?_map, List.getElem?_range hk]; rfl)
    · refine Memory.read_setRange_outside (.inr ?_)
      rw [int16Bytes_length, fftFn_length]
      omega

/-- The first entries of the table, where they are written. -/
theorem State.tabEntries?_of_bytes {s : State} {i n : Nat} {xs : List Int} (hlen : xs.length = n)
    (h : ∀ k, k < n → ∃ v : BitVec 16,
      Memory.readBytes unwritten s.tab (2 * (i + k)) 2 = some (leBytes 2 v.toNat) ∧ v.toInt = xs.getD k 0) :
    s.tabEntries? i n = some xs := by
  induction xs generalizing i n with
  | nil => subst hlen; rfl
  | cons x xs ih =>
    subst hlen
    obtain ⟨v, hread, hv⟩ := h 0 (Nat.succ_pos _)
    have htail := ih (i := i + 1) rfl fun j hj => by
      have := h (j + 1) (Nat.succ_lt_succ hj)
      rwa [List.getD_cons_succ, show i + (j + 1) = i + 1 + j by omega] at this
    rw [List.length_cons, State.tabEntries?, htail]
    rw [Nat.add_zero] at hread
    rw [hread]
    have hx : Int.bmod (leNat (leBytes 2 v.toNat)) (2 ^ 16) = x := by
      rw [leNat_leBytes, Nat.mod_eq_of_lt (b := 256 ^ 2) v.isLt, ← BitVec.toInt_eq_toNat_bmod, hv]; rfl
    simp only [hx]

/-- The scan keeps the best so far if nothing after it is larger. -/
theorem absMaxFrom_of_le {best : Nat × Nat} {i : Nat} {xs : List Int} (h : ∀ j, j < xs.length → (xs.getD j 0).natAbs ≤ best.2) :
    absMaxFrom best i xs = best := by
  induction xs generalizing i with
  | nil => rfl
  | cons x xs ih =>
    have hx : x.natAbs ≤ best.2 := h 0 (Nat.succ_pos _)
    rw [absMaxFrom, if_neg (Nat.not_lt.mpr hx)]
    exact ih fun j hj => h (j + 1) (Nat.succ_lt_succ hj)

/-- The scan ends at the first largest entry if it is larger than the best so far. -/
theorem absMaxFrom_of_isFirstLargest {best : Nat × Nat} {i r : Nat} {xs : List Int} (h : IsFirstLargest xs r)
    (hbest : best.2 < (xs.getD r 0).natAbs) : absMaxFrom best i xs = (i + r, (xs.getD r 0).natAbs) := by
  induction xs generalizing best i r with
  | nil => exact absurd h.1 (Nat.not_lt_zero _)
  | cons x xs ih =>
    obtain ⟨hr, hmax, hfirst⟩ := h
    rw [absMaxFrom]
    cases r with
    | zero =>
      rw [List.getD_cons_zero] at hbest ⊢
      rw [if_pos hbest, absMaxFrom_of_le (best := (i, x.natAbs)) fun j hj => hmax (j + 1) (Nat.succ_lt_succ hj)]
      rfl
    | succ r =>
      have hx : x.natAbs < (xs.getD r 0).natAbs := hfirst 0 (Nat.succ_pos _)
      rw [List.getD_cons_succ] at hbest ⊢
      rw [ih (r := r) ⟨Nat.lt_of_succ_lt_succ hr, fun j hj => hmax (j + 1) (Nat.succ_lt_succ hj),
        fun j hj => hfirst (j + 1) (Nat.succ_lt_succ hj)⟩ (by split <;> assumption)]
      congr 1
      omega

theorem absMaxOf_of_isFirstLargest {r : Nat} {xs : List Int} (h : IsFirstLargest xs r) :
    absMaxOf xs = (r, (xs.getD r 0).natAbs) := by
  cases xs with
  | nil => exact absurd h.1 (Nat.not_lt_zero _)
  | cons x xs =>
    obtain ⟨hr, hmax, hfirst⟩ := h
    rw [absMaxOf]
    cases r with
    | zero => exact absMaxFrom_of_le (best := (0, x.natAbs)) fun j hj => hmax (j + 1) (Nat.succ_lt_succ hj)
    | succ r =>
      have hx : x.natAbs < (xs.getD r 0).natAbs := hfirst 0 (Nat.succ_pos _)
      rw [absMaxFrom_of_isFirstLargest (r := r) ⟨Nat.lt_of_succ_lt_succ hr,
        fun j hj => hmax (j + 1) (Nat.succ_lt_succ hj), fun j hj => hfirst (j + 1) (Nat.succ_lt_succ hj)⟩ hx]
      rw [Nat.add_comm]
      rfl

/-- Settles O26: the scan finds the first largest entry, and `F0` rejects it at an end point. -/
theorem fftAbsMaxFindsTheFirstLargest : Obligations.FftAbsMaxFindsTheFirstLargest := by
  intro s f0 size hsize hlen
  have hrun : exec (.fftAbsMax f0) s = execFftAbsMax f0 s := rfl
  rw [execFftAbsMax, State.withArg_of_hasArg hsize] at hrun
  replace hrun := hrun.trans (if_neg hlen)
  refine ⟨fun hbig => hrun.trans (if_pos hbig), ?_, fun xs r hle hxs hbytes hlargest => ?_⟩
  · rintro rfl
    rw [hrun]
    cases f0 <;> rfl
  · have htab : s.tabEntries? 0 (u32 size) = some xs :=
      State.tabEntries?_of_bytes hxs fun k hk => by rw [Nat.zero_add]; exact hbytes k (by rw [hxs]; exact hk)
    have hr := hlargest.1
    have hend : (f0 = true ∧ (r = 0 ∨ r = u32 size - 1)) ↔ (f0 = true ∧ (r = 0 ∨ r + 1 = xs.length)) := by
      simp only [u32, ← hxs]
      exact and_congr_right fun _ => or_congr_right (by omega)
    rw [hrun, if_neg (show ¬2 * s.fftLen.toNat < u32 size from Nat.not_lt.mpr hle), htab, State.withData_some, absMaxOf_of_isFirstLargest hlargest]
    simp only [rejectEndpoints, hend]
    split <;> rfl

/-! ### CRC (R133–R138) -/

theorem State.xbufBytes?_of_xbufHas {s : State} {off n : Nat} {bs : List Byte} (hlen : bs.length = n)
    (h : s.XbufHas off bs) : s.xbufBytes? off n = some bs :=
  Memory.readBytes_eq_some.mpr ⟨hlen, fun i hi => h i (by omega)⟩

/-- The common form of the CRC commands: ARG for a bad range or length, else the value (R133). -/
theorem State.crcCommand_eq {s : State} {xoff len : Word} (hx : s.HasArg 0 xoff) (hl : s.HasArg 1 len) (lenOk : Nat → Bool)
    (value : List Byte → Word) :
    (s.cfg.xbufBytes < xoff.toNat + len.toNat ∨ lenOk len.toNat = false →
      s.crcCommand lenOk value = .next { s with rc := .arg }) ∧
    ∀ bs : List Byte, xoff.toNat + len.toNat ≤ s.cfg.xbufBytes → lenOk len.toNat = true → bs.length = len.toNat →
      s.XbufHas xoff.toNat bs → s.crcCommand lenOk value = .next { s.setRes 0 (value bs) with rc := .ok } := by
  have hrun : s.crcCommand lenOk value = s.crcCommand lenOk value := rfl
  conv at hrun => rhs; rw [State.crcCommand, State.withArg_of_hasArg hx, State.withArg_of_hasArg hl]
  refine ⟨fun hbad => hrun.trans ?_, fun bs hfit hok hlen hbs => hrun.trans ?_⟩
  · by_cases hfit : s.cfg.xbufBytes < u32 xoff + u32 len
    · exact if_pos hfit
    · refine (if_neg hfit).trans (if_pos ?_)
      rw [Bool.not_eq_true']
      exact hbad.resolve_left hfit
  · refine (if_neg (Nat.not_lt.mpr hfit)).trans ((if_neg ?_).trans ?_)
    · rw [Bool.not_eq_true']; exact ne_false_of_eq_true hok
    · change s.withData (s.xbufBytes? xoff.toNat len.toNat) _ = _
      rw [State.xbufBytes?_of_xbufHas hlen hbs]
      rfl

/-- Settles O32: the three commands are one form with their own length test and value. -/
theorem crcCommandsReturnTheChecksum : Obligations.CrcCommandsReturnTheChecksum := by
  intro s xoff len hx hl
  have hform := fun lenOk value => State.crcCommand_eq hx hl lenOk value
  refine ⟨fun hbad => ?_, fun hmod => ?_, fun bs hfit hlen hbs => ⟨?_, ?_, fun hmod => ?_⟩⟩
  · simp only [List.forall_mem_cons]
    exact ⟨(exec_crc4 s).trans ((hform _ _).1 (.inl hbad)), (exec_crc8 s).trans ((hform _ _).1 (.inl hbad)),
      (exec_crc32 s).trans ((hform _ _).1 (.inl hbad)), nofun⟩
  · exact (exec_crc32 s).trans ((hform _ _).1 (.inr (beq_false_of_ne hmod)))
  · exact (exec_crc4 s).trans ((hform _ _).2 bs hfit rfl hlen hbs)
  · exact (exec_crc8 s).trans ((hform _ _).2 bs hfit rfl hlen hbs)
  · exact (exec_crc32 s).trans ((hform _ _).2 bs hfit (beq_iff_eq.mpr hmod) hlen hbs)

/-- Dividing a register by its own bits only shifts it out. -/
theorem crcBit_shiftLeft (p c : BitVec 8) {k : Nat} (hk : k < 8) :
    crcBit p (c <<< k) (c.getLsbD (7 - k)) = c <<< (k + 1) := by
  have hmsb : (c <<< k).msb = c.getLsbD (7 - k) := by
    rw [BitVec.msb_eq_getLsbD_last, BitVec.getLsbD_shiftLeft]
    simp [show ¬7 < k by omega]
  rw [crcBit, hmsb, bne_self_eq_false, if_neg (by decide), BitVec.shiftLeft_add]

theorem crcByte_self (p c : BitVec 8) : crcByte p c c = 0 := by
  have hbit := fun k hk => crcBit_shiftLeft p c (k := k) hk
  have h0 := hbit 0 (by decide)
  rw [BitVec.shiftLeft_zero] at h0
  simp only [crcByte, List.foldl_cons, List.foldl_nil]
  rw [h0, hbit 1 (by decide), hbit 2 (by decide), hbit 3 (by decide), hbit 4 (by decide), hbit 5 (by decide),
    hbit 6 (by decide), hbit 7 (by decide)]
  exact BitVec.shiftLeft_eq_zero (by decide)

theorem crc32Bits_zero (n : Nat) : crc32Bits n 0 = 0 := by
  induction n with
  | zero => rfl
  | succ n ih => rw [crc32Bits, show crc32Bit 0 = 0 by decide, ih]

/-- Settles O33: the checksum divided by itself leaves nothing. -/
theorem appendedChecksumGivesZero : Obligations.AppendedChecksumGivesZero := by
  refine ⟨fun p v bs => ?_, fun ws => ?_⟩
  · conv_lhs => rw [crcw, List.foldl_append]
    exact crcByte_self p (crcw p v bs)
  · conv_lhs => rw [crc32Default, List.foldl_append]
    change crc32Bits 32 (crc32Default ws ^^^ crc32Default ws) = 0
    rw [BitVec.xor_self]
    exact crc32Bits_zero 32

end Sys2Proof.Machine
end


section
/-! Proofs of the statements about the single-step NV commands (R140, R145–R151) and about how the composites begin. -/

namespace Sys2Proof.Machine

-- Many short elaborations at once would start a thread each.
set_option Elab.async false

/-! ### Micro-steps with their failure draw (R140) -/

theorem State.draw_setTgt (s : State) (g : TornTarget) : (s.setTgt g).draw = (s.draw.1, s.draw.2.setTgt g) := by
  simp only [State.draw, State.setTgt]
  split <;> rfl

theorem State.drawBool_setTgt (s : State) (g : TornTarget) : (s.setTgt g).drawBool = (s.drawBool.1, s.draw.2.setTgt g) := by
  rw [State.drawBool, State.draw_setTgt]; rfl

theorem State.nvBytes_eq_map (s : State) (a n : Nat) : s.nvBytes a n = (List.range n).map fun k => s.nvByte (a + k) := by
  induction n generalizing a with
  | zero => rfl
  | succ n ih =>
    rw [State.nvBytes, ih, List.range_succ_eq_map, List.map_cons, List.map_map]
    congr 1
    exact List.map_congr_left fun k _ => congrArg s.nvByte (by simp only [Nat.succ_eq_add_one]; omega)

theorem State.nvBytes_setTgt (s : State) (g : TornTarget) (a n : Nat) : (s.setTgt g).nvBytes a n = s.nvBytes a n := by
  rw [State.nvBytes_eq_map, State.nvBytes_eq_map]; rfl

/-- An erase that is let through fails exactly if its draw says so, and takes no other draw if it does not fail. -/
theorem State.nvEraseStep_draw {s : State} {k : Nat} (hlock : s.lock = false) (hwp : s.wpBit k = false) :
    ∃ bs t n, bs.length = s.cfg.sz k ∧
      s.nvEraseStep k =
        (((s.setTgt (.bytes (s.cfg.sb k) (s.cfg.sz k))).withDraws t n).setNv (s.cfg.sb k) bs, !s.drawBool.1) ∧
      (s.drawBool.1 = false → bs = List.replicate (s.cfg.sz k) 0xFF ∧ s.draw.2 = s.withDraws t n) := by
  obtain ⟨t, n, hd⟩ := s.draw_eq
  have hgo : ¬(s.lock || s.wpBit k) = true := by rw [hlock, hwp]; decide
  rw [State.nvEraseStep, if_neg hgo]
  simp only [State.drawBool_setTgt, hd]
  cases hfail : s.drawBool.1 with
  | false => exact ⟨_, t, n, List.length_replicate, rfl, fun _ => ⟨rfl, rfl⟩⟩
  | true =>
    obtain ⟨t', n', hd'⟩ := ((s.withDraws t n).setTgt (.bytes (s.cfg.sb k) (s.cfg.sz k))).drawBytes_eq (s.cfg.sz k)
    exact ⟨_, t', n', State.drawBytes_length .., by simp only [if_true, hd']; rfl, nofun⟩

/-- A program of erased bytes that is let through: the same. -/
theorem State.nvProgramStep_draw {s : State} {a : Nat} {v : List Byte} (hlock : s.lock = false)
    (hwp : s.wpBit (s.sectorOf a) = false) (herased : ∀ k, k < v.length → s.nvByte (a + k) = 0xFF) :
    ∃ bs t n, bs.length = v.length ∧
      s.nvProgramStep a v = (((s.setTgt (.bytes a v.length)).withDraws t n).setNv a bs, !s.drawBool.1) ∧
      (s.drawBool.1 = false → bs = v ∧ s.draw.2 = s.withDraws t n) := by
  obtain ⟨t, n, hd⟩ := s.draw_eq
  have hgo : ¬(s.lock || s.wpBit (s.sectorOf a)) = true := by rw [hlock, hwp]; decide
  have hclean : ¬((s.setTgt (.bytes a v.length)).nvBytes a v.length).any (fun b => b != 0xFF) = true := by
    rw [State.nvBytes_setTgt, State.nvBytes_eq_map]
    simp only [List.any_map, List.any_eq_true, List.mem_range, Function.comp, not_exists, not_and]
    exact fun k hk => by rw [herased k hk]; decide
  rw [State.nvProgramStep, if_neg hgo]
  simp only [if_neg hclean, State.drawBool_setTgt, hd]
  cases hfail : s.drawBool.1 with
  | false => exact ⟨_, t, n, rfl, rfl, fun _ => ⟨rfl, rfl⟩⟩
  | true =>
    obtain ⟨t', n', hd'⟩ := ((s.withDraws t n).setTgt (.bytes a v.length)).drawBytes_eq v.length
    exact ⟨_, t', n', State.drawBytes_length .., by simp only [if_true, hd']; rfl, nofun⟩

/-- An option write that is let through: the same. -/
theorem State.optWriteStep_draw {s : State} (k : Nat) (bit : Bool) (hob : s.oblock = false) :
    ∃ b t n, s.optWriteStep k bit =
        (((s.setTgt (.optBit k)).withDraws t n).setOptWp (setBit s.nvOptWp k b), !s.drawBool.1) ∧
      (s.drawBool.1 = false → b = bit ∧ s.draw.2 = s.withDraws t n) := by
  obtain ⟨t, n, hd⟩ := s.draw_eq
  rw [State.optWriteStep, if_neg (ne_true_of_eq_false hob)]
  simp only [State.drawBool_setTgt, hd]
  cases hfail : s.drawBool.1 with
  | false => exact ⟨bit, t, n, rfl, fun _ => ⟨rfl, rfl⟩⟩
  | true =>
    obtain ⟨t', n', hd'⟩ := (s.withDraws t n).draw_eq
    exact ⟨(s.withDraws t n).drawBool.1, t', n', by simp only [if_true, hd']; rfl, nofun⟩

/-- A load of the options that is let through: the same. -/
theorem State.optLaunchStep_draw {s : State} (hob : s.oblock = false) :
    s.optLaunchStep = (s.draw.2.setWp (if s.drawBool.1 then s.nvWp else s.nvOptWp), !s.drawBool.1) := by
  rw [State.optLaunchStep, if_neg (ne_true_of_eq_false hob)]
  obtain ⟨t, n, hd⟩ := s.draw_eq
  rw [State.drawBool_snd, hd]
  cases s.drawBool.1 <;> rfl

/-! ### The refusals (R140) -/

theorem State.nvEraseStep_refused {s : State} {k : Nat} (h : s.lock = true ∨ s.wpBit k = true) :
    s.nvEraseStep k = (s, false) := if_pos (Bool.or_eq_true_iff.mpr h)

theorem State.nvProgramStep_refused {s : State} {a : Nat} (h : s.lock = true ∨ s.wpBit (s.sectorOf a) = true) (v : List Byte) :
    s.nvProgramStep a v = (s, false) := if_pos (Bool.or_eq_true_iff.mpr h)

/-! ### Options and erase (R145–R147) -/

/-- Settles O35: each command is its micro-step, which tests `OBLOCK` before it draws. -/
theorem optionCommandsObeyTheirLock : Obligations.OptionCommandsObeyTheirLock := by
  refine ⟨fun s f0 k hv hk => ?_, fun s => ?_⟩
  · have hrun : exec (.nvWpSet f0) s = execNvWpSet f0 s := rfl
    rw [execNvWpSet, State.withArg_of_hasArg hk] at hrun
    refine ⟨fun hbad => hrun.trans (if_pos hbad), fun hin hob => ?_, fun hin hob => ?_⟩
    · refine (hrun.trans (if_neg (Nat.not_le.mpr hin))).trans ?_
      rw [State.optWriteStep, if_pos hob]; rfl
    · obtain ⟨b, t, n, hstep, hok⟩ := State.optWriteStep_draw k.toNat f0 hob
      have hk32 : k.toNat < 32 := by have := (Params.valid_bounds hv).2.1; omega
      refine ⟨_, (hrun.trans (if_neg (Nat.not_le.mpr hin))).trans (congrArg finishStep hstep), ?_, fun hno => ?_, fun m hm => ?_⟩
      · cases s.drawBool.1 <;> rfl
      · change (setBit s.nvOptWp k.toNat b).getLsbD k.toNat = f0
        rw [setBit_getLsbD, (hok hno).1]; simp [hk32]
      · change (setBit s.nvOptWp k.toNat b).getLsbD m = s.nvOptWp.getLsbD m
        rw [setBit_getLsbD, if_neg (fun h => hm h.1)]
  · have hrun : exec .nvObLaunch s = finishStep s.optLaunchStep := rfl
    refine ⟨fun hob => ?_, fun hob => ?_⟩
    · rw [hrun, State.optLaunchStep, if_pos hob]; rfl
    · rw [hrun, State.optLaunchStep_draw hob, State.drawBool_snd]
      obtain ⟨t, n, hd⟩ := s.draw_eq
      rw [hd]
      cases s.drawBool.1 <;> rfl

/-- Settles O36: the erase is its micro-step. -/
theorem eraseClearsOneSector : Obligations.EraseClearsOneSector := by
  intro s k hk
  have hrun : exec .nvErase s = execNvErase s := rfl
  rw [execNvErase, State.withArg_of_hasArg hk] at hrun
  refine ⟨fun hbad => hrun.trans (if_pos hbad), fun hin hno => ?_, fun hin hlock hwp => ?_⟩
  · refine (hrun.trans (if_neg (Nat.not_le.mpr hin))).trans ?_
    exact congrArg finishStep (State.nvEraseStep_refused hno)
  · obtain ⟨bs, t, n, hlen, hstep, hok⟩ := State.nvEraseStep_draw hlock hwp
    refine ⟨_, (hrun.trans (if_neg (Nat.not_le.mpr hin))).trans (congrArg finishStep hstep), ?_, fun hno a ha => ?_, fun a ha => ?_⟩
    · cases s.drawBool.1 <;> rfl
    · obtain ⟨rfl, -⟩ := hok hno
      obtain ⟨hlo, hhi⟩ := ha
      have hset := State.nvByte_setNv_inside (s := s) (lo := s.cfg.sb k.toNat) (k := a - s.cfg.sb k.toNat)
        (bs := List.replicate (s.cfg.sz k.toNat) 0xFF) (by rw [List.length_replicate]; omega)
      rw [Nat.add_sub_cancel' hlo, List.getElem_replicate] at hset
      exact hset
    · exact State.nvByte_setNv_outside (s := s) (by rw [hlen]; omega)

/-! ### Programming (R148, R149) -/

theorem leBytes_four (d : Word) :
    leBytes 4 d.toNat = [d.extractLsb' 0 8, d.extractLsb' 8 8, d.extractLsb' 16 8, d.extractLsb' 24 8] := by
  refine List.ext_getElem (leBytes_length _ _) fun k hk hk' => ?_
  rw [leBytes_length] at hk
  have hbyte := leBytes_getElem? (n := 4) (v := d.toNat) hk
  rw [List.getElem?_eq_getElem (by rw [leBytes_length]; exact hk), Option.some.injEq] at hbyte
  rw [hbyte]
  have hext : ∀ j, BitVec.ofNat 8 (d.toNat / 256 ^ j) = d.extractLsb' (8 * j) 8 := fun j => by
    apply BitVec.eq_of_toNat_eq
    rw [BitVec.toNat_ofNat, BitVec.extractLsb'_toNat, Nat.shiftRight_eq_div_pow, Nat.pow_mul]
  rw [hext]
  match k, hk with
  | 0, _ => rfl
  | 1, _ => rfl
  | 2, _ => rfl
  | 3, _ => rfl

/-- Both program commands: a test of the address, then the micro-step. -/
theorem exec_program {s : State} {a d : Word} {i : Instr} {v : List Byte} (ha : s.HasArg 0 a) (hd : s.HasArg 1 d)
    (hi : (i = .nvProgByte ∧ v = [d.extractLsb' 0 8]) ∨ (i = .nvProgWord ∧
      v = [d.extractLsb' 0 8, d.extractLsb' 8 8, d.extractLsb' 16 8, d.extractLsb' 24 8])) :
    (s.cfg.nvBytes < a.toNat + v.length ∨ a.toNat % v.length ≠ 0 → exec i s = .next { s with rc := .arg }) ∧
    (a.toNat + v.length ≤ s.cfg.nvBytes → a.toNat % v.length = 0 →
      exec i s = finishStep (s.nvProgramStep a.toNat v)) := by
  rcases hi with ⟨rfl, rfl⟩ | ⟨rfl, rfl⟩
  · have hrun : exec .nvProgByte s = execNvProgByte s := rfl
    rw [execNvProgByte, State.withArg_of_hasArg ha, State.withArg_of_hasArg hd] at hrun
    simp only [List.length_singleton, Nat.mod_one, ne_eq, not_true_eq_false, or_false]
    exact ⟨fun hbad => hrun.trans (if_pos (Nat.lt_succ_iff.mp hbad)),
      fun hin _ => hrun.trans (if_neg (Nat.not_le.mpr hin))⟩
  · have hrun : exec .nvProgWord s = execNvProgWord s := rfl
    rw [execNvProgWord, State.withArg_of_hasArg ha, State.withArg_of_hasArg hd] at hrun
    refine ⟨fun hbad => hrun.trans (if_pos hbad.symm), fun hin hmod => ?_⟩
    refine (hrun.trans (if_neg ?_)).trans ?_
    · rintro (h | h)
      · exact h hmod
      · exact absurd h (Nat.not_lt.mpr hin)
    · rw [u32, u32, leBytes_four]

/-- Settles O37: of a program that is let through, only the bytes it names can change. -/
theorem programWritesItsBytes : Obligations.ProgramWritesItsBytes := by
  intro s a d i v ha hd hi
  obtain ⟨hbad, hgo⟩ := exec_program ha hd hi
  refine ⟨hbad, fun hin hmod => ⟨fun hno => ?_, fun hlock hwp => ?_⟩⟩
  · exact (hgo hin hmod).trans (congrArg finishStep (State.nvProgramStep_refused hno v))
  · by_cases herased : ∀ n, n < v.length → s.nvByte (a.toNat + n) = 0xFF
    · obtain ⟨bs, t, n, hlen, hstep, hok⟩ := State.nvProgramStep_draw hlock hwp herased
      refine ⟨_, (hgo hin hmod).trans (congrArg finishStep hstep), ?_, ?_, fun _ => ⟨?_, fun hrc m hm => ?_⟩, fun b hb => ?_⟩
      · rfl
      · cases s.drawBool.1
        · exact .inl rfl
        · exact .inr rfl
      · cases s.drawBool.1 <;> rfl
      · have hno : s.drawBool.1 = false := by
          cases hfail : s.drawBool.1 with
          | false => rfl
          | true => simp [hfail] at hrc
        rw [(hok hno).1, List.getD_eq_getElem _ _ hm]
        exact State.nvByte_setNv_inside (s := s) hm
      · exact State.nvByte_setNv_outside (s := s) (by rw [hlen]; omega)
    · rcases s.nvProgramStep_cases a.toNat v with ⟨hno, -⟩ | ⟨-, -, t, n, bs, ok, hlen, -, hstep⟩
      · rcases hno with hno | hno
        · rw [hlock] at hno; cases hno
        · rw [State.wpBit, hwp] at hno; cases hno
      · refine ⟨_, (hgo hin hmod).trans (congrArg finishStep hstep), rfl, ?_, fun h => absurd h herased, fun b hb => ?_⟩
        · cases ok
          · exact .inr rfl
          · exact .inl rfl
        · exact State.nvByte_setNv_outside (s := s) (by rw [hlen]; omega)

/-! ### Reading (R150, R151) -/

/-- Four bytes as a word, lowest first. -/
theorem ofNat_leNat_four (a b c d : Byte) : BitVec.ofNat 32 (leNat [a, b, c, d]) = d ++ c ++ b ++ a := by
  have hnum : leNat [a, b, c, d] = a.toNat + 256 * (b.toNat + 256 * (c.toNat + 256 * d.toNat)) := rfl
  apply BitVec.eq_of_toNat_eq
  rw [hnum, BitVec.toNat_ofNat]
  simp only [BitVec.toNat_append]
  rw [← Nat.shiftLeft_add_eq_or_of_lt a.isLt, ← Nat.shiftLeft_add_eq_or_of_lt b.isLt,
    ← Nat.shiftLeft_add_eq_or_of_lt c.isLt]
  simp only [Nat.shiftLeft_eq]
  have := a.isLt; have := b.isLt; have := c.isLt; have := d.isLt
  omega

/-- Bytes just copied to XBUF, and the others. -/
theorem State.read_setXbuf_nvBytes (s t : State) (lo a n : Nat) :
    (∀ k, k < n → Memory.read unwritten (t.setXbuf lo (s.nvBytes a n)).xbuf (lo + k) = some (s.nvByte (a + k))) ∧
      ∀ b, ¬(lo ≤ b ∧ b < lo + n) →
        Memory.read unwritten (t.setXbuf lo (s.nvBytes a n)).xbuf b = Memory.read unwritten t.xbuf b := by
  have hread := fun b => Memory.read_setRange unwritten t.xbuf lo (s.nvBytes a n) b
  rw [State.nvBytes_length] at hread
  refine ⟨fun k hk => ?_, fun b hb => (hread b).trans (if_neg hb)⟩
  refine (hread (lo + k)).trans ((if_pos (by omega)).trans ?_)
  rw [Nat.add_sub_cancel_left, State.nvBytes_eq_map, List.getElem?_map, List.getElem?_range hk]
  rfl

/-- Settles O38: the commands read what `nvByte` reads. -/
theorem nvReadsCopyBytes : Obligations.NvReadsCopyBytes := by
  intro s a ha
  have hbyte : exec .nvReadByte s = execNvReadByte s := rfl
  rw [execNvReadByte, State.withArg_of_hasArg ha] at hbyte
  refine ⟨fun hbad => hbyte.trans (if_pos hbad), fun hin => hbyte.trans (if_neg (Nat.not_le.mpr hin)),
    fun f0 n xo hn hxo => ?_⟩
  have hrun : exec (.nvRead f0) s = execNvRead f0 s := rfl
  rw [execNvRead, State.withArg_of_hasArg ha, State.withArg_of_hasArg hn, State.withArg_of_hasArg hxo] at hrun
  refine ⟨fun hbad => hrun.trans (if_pos ?_), fun bs cc sc hnv hxb hmod hbs hcc hsc => ?_⟩
  · rw [Nat.add_assoc] at hbad; exact hbad
  · have hok : ¬(s.cfg.nvBytes < u32 a + (u32 n + crcLen f0) ∨ s.cfg.xbufBytes < u32 xo + u32 n ∨
        (f0 = true ∧ u32 n % 4 ≠ 0)) := by
      rw [Nat.add_assoc] at hnv
      rintro (h | h | h)
      · exact absurd h (Nat.not_lt.mpr hnv)
      · exact absurd h (Nat.not_lt.mpr hxb)
      · exact h.2 (hmod h.1)
    obtain ⟨hin, hout⟩ := State.read_setXbuf_nvBytes s s xo.toNat a.toNat n.toNat
    replace hrun := hrun.trans (if_neg hok)
    cases f0 with
    | false => exact ⟨_, hrun, rfl, hin, hout⟩
    | true =>
      have hcrc : crc32Fn s.cfg (leWords (s.nvBytes a.toNat n.toNat)) = cc := by rw [hcc, hbs, State.nvBytes_eq_map]
      have hword : BitVec.ofNat 32 (leNat (s.nvBytes (a.toNat + n.toNat) 4)) = sc := by
        rw [hsc]; exact ofNat_leNat_four _ _ _ _
      simp only [if_true] at hrun
      rw [u32, u32, u32, hcrc, hword] at hrun
      exact ⟨_, hrun, rfl, hin, hout⟩

/-! ### How the composites begin (R152–R154) -/

/-- Settles O39: micro-step 0 tests the operands and reads the bytes to program. -/
theorem compositesBeginAndOtpRead : Obligations.CompositesBeginAndOtpRead := by
  refine ⟨fun s f0 a n xo ha hn hxo => ?_, fun s r hr hx => ?_, fun s => ⟨fun hno => ?_, fun hok => ?_⟩⟩
  · have hrun : exec (.nvWrite f0) s = execNvWrite f0 s := rfl
    rw [execNvWrite, State.withArg_of_hasArg ha, State.withArg_of_hasArg hn, State.withArg_of_hasArg hxo] at hrun
    refine ⟨fun hbad => ?_, fun p hxb hmod hnv hsec hfit hlen hp => ?_⟩
    · rw [Nat.add_assoc] at hbad
      by_cases hfirst : s.cfg.xbufBytes < u32 xo + u32 n ∨ (f0 = true ∧ u32 n % 4 ≠ 0) ∨
          s.cfg.nvBytes < u32 a + (u32 n + crcLen f0)
      · exact hrun.trans (if_pos hfirst)
      · refine (hrun.trans (if_neg hfirst)).trans (if_pos (.inr ?_))
        rcases hbad with h | h | h | h
        · exact absurd (.inl h) hfirst
        · exact absurd (.inr (.inl h)) hfirst
        · exact absurd (.inr (.inr h)) hfirst
        · exact h
    · rw [Nat.add_assoc] at hnv hfit
      have hfirst : ¬(s.cfg.xbufBytes < u32 xo + u32 n ∨ (f0 = true ∧ u32 n % 4 ≠ 0) ∨
          s.cfg.nvBytes < u32 a + (u32 n + crcLen f0)) := by
        rintro (h | h | h)
        · exact absurd h (Nat.not_lt.mpr hxb)
        · exact h.2 (hmod h.1)
        · exact absurd h (Nat.not_lt.mpr hnv)
      have hsector : ¬(s.cfg.nvSectors ≤ s.sectorOf (u32 a) ∨
          s.cfg.sb (s.sectorOf (u32 a)) + s.cfg.sz (s.sectorOf (u32 a)) < u32 a + (u32 n + crcLen f0)) := by
        rintro (h | h)
        · exact absurd h (Nat.not_le.mpr hsec)
        · exact absurd h (Nat.not_lt.mpr hfit)
      have hdata : s.xbufBytes? (u32 xo) (u32 n) = some p := State.xbufBytes?_of_xbufHas hlen hp
      replace hrun := (hrun.trans (if_neg hfirst)).trans (if_neg hsector)
      rw [hdata] at hrun
      rw [hrun]
      cases f0 <;> rfl
  · have hdata : s.xbufBytes? 0 Params.otpRecBytes = some r := State.xbufBytes?_of_xbufHas hr hx
    have hrun : exec .otpWrite s = execOtpWrite s := rfl
    rw [execOtpWrite, hdata] at hrun
    have hhead : r.getD 0 0 = r.headD 0 := by cases r <;> rfl
    rw [hhead]
    refine ⟨fun hbad => hrun.trans (if_pos hbad), fun h1 h2 => hrun.trans (if_neg ?_)⟩
    rintro (h | h)
    · omega
    · exact absurd h (Nat.not_lt.mpr h2)
  · rw [exec_otpRead, execOtpRead, hno]; rfl
  · obtain ⟨hin, hout⟩ := State.read_setXbuf_nvBytes s s 0 (s.cfg.sb s.cfg.otpSector) 32
    rw [exec_otpRead, execOtpRead, hok]
    refine ⟨_, rfl, rfl, fun k hk => ?_, fun b hb => hout b (by omega)⟩
    have := hin k hk
    rwa [Nat.zero_add] at this

end Sys2Proof.Machine
end


section
/-! Proof of the statement that composites end (R152, R154, R183), and runs with them (R176). -/

namespace Sys2Proof.Machine

-- Many short elaborations at once would start a thread each.
set_option Elab.async false

/-! ### The forms of a micro-step (R152, R154) -/

/-- What a failing micro-step of a composite still does: `NV_WRITE` locks again. -/
def Composite.onFail : Composite → State → State
  | .nvWrite .. => State.relock
  | .otpWrite _ => id

/-- What the last micro-step of a composite does: the locks are closed. -/
def Composite.closing : Composite → State → State
  | .nvWrite .. => State.relock
  | .otpWrite _ => fun s => { s with lock := true, oblock := true }

/-- The effect of a micro-step on NV and the options leaves everything else, the result code and the locks too. -/
theorem NvEffect.frame {s u : State} (h : NvEffect s u) :
    u.rc = s.rc ∧ u.lock = s.lock ∧ u.oblock = s.oblock ∧ u.cfg = s.cfg := by
  cases h <;> exact ⟨rfl, rfl, rfl, rfl⟩

theorem MicroOutcome.frame {s : State} {r : State × Bool} (h : MicroOutcome s r) :
    r.1.rc = s.rc ∧ r.1.lock = s.lock ∧ r.1.oblock = s.oblock ∧ r.1.cfg = s.cfg := by
  obtain ⟨u, hu, t, n, hr⟩ := h
  rw [hr]
  exact hu.frame

/-- The composite's part of the invariant, for the micro-step it names next. -/
structure Progress.Next (p : Progress) : Prop where
  first : 1 ≤ p.index
  last : p.index ≤ p.command.microSteps

/-- A micro-step is one of NV or the options, after which the composite goes on or fails; the last one closes the locks. -/
theorem State.microStep_forms (s : State) {p : Progress} (hp : p.Next) :
    (p.index < p.command.microSteps ∧
      ∃ r, MicroOutcome s r ∧ s.microStep p = p.continueComposite r p.command.onFail) ∨
    (p.index = p.command.microSteps ∧ s.microStep p = (p.command.closing s).endComposite .ok) := by
  obtain ⟨command, index⟩ := p
  obtain ⟨hfirst, hlast⟩ := hp
  simp only [] at hfirst hlast ⊢
  cases command with
  | nvWrite f0 a n xo payload =>
    simp only [Composite.microSteps] at hlast ⊢
    by_cases h1 : index ≤ 1
    · exact .inl ⟨by omega, _, s.nvEraseStep_outcome _, if_pos h1⟩
    · by_cases hlt : index < payload.length + 2
      · have hget : payload[index - 2]? = some payload[index - 2] := List.getElem?_eq_getElem (by omega)
        refine .inl ⟨hlt, _, State.nvProgramStep_outcome (a := u32 a + (index - 2)) (v := [payload[index - 2]]) (.inl (le_of_eq rfl)), ?_⟩
        refine (if_neg h1).trans ?_
        simp only [hget]
        rfl
      · refine .inr ⟨by omega, (if_neg h1).trans ?_⟩
        simp only [List.getElem?_eq_none (show payload.length ≤ index - 2 by omega)]
        rfl
  | otpWrite record =>
    simp only [Composite.microSteps] at hlast ⊢
    simp only [State.microStep, State.otpWriteStep]
    split_ifs with h1 h2 h3 h11 h12 h13
    · exact .inl ⟨by omega, _, s.optWriteStep_outcome _, rfl⟩
    · exact .inl ⟨by omega, _, s.optLaunchStep_outcome, rfl⟩
    · exact .inl ⟨by omega, _, s.nvEraseStep_outcome _, rfl⟩
    · refine .inl ⟨by omega, _, State.nvProgramStep_outcome (.inr ⟨index - 4, by omega, rfl, ?_⟩), rfl⟩
      exact List.length_take_le _ _
    · exact .inl ⟨by omega, _, s.optWriteStep_outcome _, rfl⟩
    · exact .inl ⟨by omega, _, s.optLaunchStep_outcome, rfl⟩
    · exact .inr ⟨by omega, rfl⟩

/-- What a micro-step leaves of the composite, the result code and the locks. -/
inductive MicroLeaves (s : State) (p : Progress) (t : State) : Prop
  | goesOn (hlt : p.index < p.command.microSteps) (hprog : t.progress = some ⟨p.command, p.index + 1⟩) (hrc : t.rc = s.rc)
      (hlock : t.lock = s.lock) (hob : t.oblock = s.oblock)
  | fails (hlt : p.index < p.command.microSteps) (hprog : t.progress = none) (hrc : t.rc = .writeFail)
      (hlock : t.lock = (p.command.onFail s).lock) (hob : t.oblock = s.oblock)
  | ends (heq : p.index = p.command.microSteps) (hprog : t.progress = none) (hrc : t.rc = .ok) (hlock : t.lock = true)
      (hob : t.oblock = (p.command.closing s).oblock)

theorem State.microStep_leaves (s : State) {p : Progress} (hp : p.Next) :
    ∃ t, s.microStep p = .next t ∧ t.cfg = s.cfg ∧ MicroLeaves s p t := by
  rcases s.microStep_forms hp with ⟨hlt, r, hr, heq⟩ | ⟨hend, heq⟩
  · obtain ⟨hrc, hlock, hob, hcfg⟩ := hr.frame
    rcases p.continueComposite_cases r p.command.onFail with ⟨-, hgo⟩ | ⟨-, hfail⟩
    · exact ⟨_, heq.trans hgo, hcfg, .goesOn hlt rfl hrc hlock hob⟩
    · refine ⟨_, heq.trans hfail, ?_, .fails hlt rfl rfl ?_ ?_⟩
      · cases p.command <;> exact hcfg
      · cases p.command
        · rfl
        · exact hlock
      · cases p.command <;> exact hob
  · refine ⟨_, heq, ?_, .ends hend rfl rfl ?_ rfl⟩
    · cases p.command <;> rfl
    · cases p.command <;> rfl

theorem State.CompositeInv.next {s : State} {p : Progress} (h : s.CompositeInv) (hp : s.progress = some p) :
    p.Next ∧ p.command.fits s.cfg = true := by
  rw [State.CompositeInv, hp] at h
  obtain ⟨hfirst, hlast, hfits⟩ : 1 ≤ p.index ∧ p.index ≤ p.command.microSteps ∧ p.command.fits s.cfg = true := by
    simpa using h
  exact ⟨⟨hfirst, hlast⟩, hfits⟩

theorem State.compositeInv_of_some {s : State} {p : Progress} (hp : s.progress = some p) (hnext : p.Next)
    (hfits : p.command.fits s.cfg = true) : s.CompositeInv := by
  rw [State.CompositeInv, hp]
  simpa using ⟨hnext.first, hnext.last, hfits⟩

theorem State.compositeInv_of_none {s : State} (hp : s.progress = none) : s.CompositeInv := by
  rw [State.CompositeInv, hp]; rfl

theorem State.CompositeInv.congr {s t : State} (h : s.CompositeInv) (hp : t.progress = s.progress) (hc : t.cfg = s.cfg) :
    t.CompositeInv := by
  rw [State.CompositeInv, hp, hc]; exact h

theorem State.microStepsLeft_of_some {s : State} {p : Progress} (hp : s.progress = some p) :
    s.microStepsLeft = p.command.microSteps + 1 - p.index := by rw [State.microStepsLeft, hp]

theorem State.microStepsLeft_of_none {s : State} (hp : s.progress = none) : s.microStepsLeft = 0 := by
  rw [State.microStepsLeft, hp]

/-! ### Every step keeps the composite invariant (R39, R185) -/

theorem CommandCore.compositeInv {i : Instr} {s u : State} (h : CommandCore s i u) (hs : s.progress = none) : u.CompositeInv := by
  cases h with
  | nvWrite hfits =>
    exact State.compositeInv_of_some (s := s.nvWriteBegin _ _ _ _ _) rfl ⟨Nat.le_refl 1, Nat.le_add_left 1 _⟩ hfits
  | otpWrite hr =>
    exact State.compositeInv_of_some rfl ⟨Nat.le_refl 1, Nat.le_add_left 1 13⟩ (beq_iff_eq.mpr hr)
  | _ => exact State.compositeInv_of_none hs

/-- A HOST access, which needs that no composite is in progress, may begin one that fits. -/
theorem HostEffect.compositeInv {s t : State} (h : HostEffect s t) (hs : s.progress = none) : t.CompositeInv := by
  cases h with
  | registers _ hp => exact State.compositeInv_of_none (hp.trans hs)
  | ring lo bs _ hp ht => exact State.compositeInv_of_none (ht ▸ hp.trans hs)
  | xbuf lo bs _ hp ht => exact State.compositeInv_of_none (ht ▸ hp.trans hs)
  | command i _ hp he =>
    obtain ⟨u, res, rc, tape, n, hcore, -, -, rfl⟩ := he
    exact hcore.compositeInv (hp.trans hs)

theorem MicroLeaves.compositeInv {s t : State} {p : Progress} (h : MicroLeaves s p t) (hp : p.Next)
    (hfits : p.command.fits s.cfg = true) (hcfg : t.cfg = s.cfg) : t.CompositeInv := by
  cases h with
  | goesOn hlt hprog _ _ _ =>
    exact State.compositeInv_of_some hprog ⟨Nat.le_succ_of_le hp.first, hlt⟩ (by rw [hcfg]; exact hfits)
  | fails _ hprog _ _ _ => exact State.compositeInv_of_none hprog
  | ends _ hprog _ _ _ => exact State.compositeInv_of_none hprog

theorem State.produceStep_frame (s : State) :
    s.produceStep.progress = s.progress ∧ s.produceStep.cfg = s.cfg ∧ s.produceStep.hostLine? = s.hostLine? := by
  obtain ⟨tape, n, hd⟩ := s.draw_eq
  rw [State.produceStep, hd]
  exact ⟨rfl, rfl, rfl⟩

theorem State.completeStep_frame (s : State) :
    s.completeStep.progress = s.progress ∧ s.completeStep.cfg = s.cfg ∧ s.completeStep.hostLine? = s.hostLine? := by
  unfold State.completeStep
  split <;> exact ⟨rfl, rfl, rfl⟩

theorem State.atTurn_frame (s : State) :
    s.atTurn.progress = s.progress ∧ s.atTurn.cfg = s.cfg ∧ s.atTurn.hostLine? = s.hostLine? ∧ s.atTurn.armed = s.armed ∧
      s.atTurn.fifo = s.fifo := by
  obtain ⟨l, n, h⟩ := s.takeTurn_eq
  rw [State.atTurn, h]
  exact ⟨rfl, rfl, rfl, rfl, rfl⟩

theorem step_keeps_compositeInv {s t : State} (hs : s.CompositeInv) (ht : step s = .next t) : t.CompositeInv := by
  obtain ⟨hprog, hcfg, -⟩ := s.atTurn_frame
  have hat : s.atTurn.clearTgt.CompositeInv := hs.congr hprog hcfg
  rcases step_cases s with ⟨-, heq⟩ | ⟨-, hnone, line, -, heq⟩ | ⟨-, p, hp, heq⟩ | ⟨-, -, -, heq⟩ | ⟨-, -, -, heq⟩ | ⟨-, heq⟩ <;>
    rw [heq] at ht
  · cases ht; exact hat
  · exact (State.hostStep_effect ht).compositeInv hnone
  · obtain ⟨hnext, hfits⟩ := State.CompositeInv.next hat hp
    obtain ⟨u, hu, hucfg, hleaves⟩ := s.takeTurn.2.clearTgt.microStep_leaves hnext
    rw [hu] at ht
    cases ht
    exact hleaves.compositeInv hnext hfits hucfg
  · cases ht
    obtain ⟨hp, hc, -⟩ := s.atTurn.clearTgt.produceStep_frame
    exact hat.congr hp hc
  · cases ht
    obtain ⟨hp, hc, -⟩ := s.atTurn.clearTgt.completeStep_frame
    exact hat.congr hp hc
  · cases ht
    exact State.compositeInv_of_none rfl

/-! ### Turns that pass (R15, R16, R39) -/

/-- An agent a composite keeps from stepping lets its turn pass. -/
theorem step_passes_in_composite {s : State} {p : Progress} (hp : s.progress = some p)
    (hturn : s.turn = .host ∨ (s.cfg.prodInComposites = false ∧ (s.turn = .produce ∨ s.turn = .complete))) :
    step s = .next s.atTurn := by
  obtain ⟨hprog, hcfg, -⟩ := s.atTurn_frame
  obtain ⟨-, -, hhost, hprod, hcomp⟩ := State.enabled_in_composite (hprog.trans hp)
  refine State.runTurn_of_disabled ?_
  change s.atTurn.enabled s.turn = false
  rcases hturn with hturn | ⟨hparam, hturn | hturn⟩
  · rw [hturn, hhost]
  · rw [hturn, hprod, hcfg, hparam]; rfl
  · rw [hturn, hcomp, hcfg, hparam]; rfl

theorem State.finished_iff {s : State} : s.finished = true ↔ s.hostLine? = none ∧ s.progress = none := by
  simp [State.finished]

/-- Once HOST and CMDU are finished, PROD's steps leave them so. -/
theorem step_keeps_finished {s : State} (hs : s.finished = true) (hturn : s.turn ≠ .powerLoss) :
    ∃ t, step s = .next t ∧ t.finished = true := by
  obtain ⟨hprog, -, hline, -⟩ := s.atTurn_frame
  obtain ⟨hl, hp⟩ := State.finished_iff.mp hs
  rcases step_cases s with ⟨-, heq⟩ | ⟨-, -, line, hsome, -⟩ | ⟨-, p, hsome, -⟩ | ⟨-, -, -, heq⟩ | ⟨-, -, -, heq⟩ | ⟨hloss, -⟩
  · exact ⟨_, heq, State.finished_iff.mpr ⟨hline.trans hl, hprog.trans hp⟩⟩
  · rw [State.atTurn, hsome] at hline; rw [hl] at hline; cases hline
  · rw [State.atTurn, hsome] at hprog; rw [hp] at hprog; cases hprog
  · obtain ⟨hpp, -, hpl⟩ := s.atTurn.clearTgt.produceStep_frame
    exact ⟨_, heq, State.finished_iff.mpr ⟨hpl.trans (hline.trans hl), hpp.trans (hprog.trans hp)⟩⟩
  · obtain ⟨hcp, -, hcl⟩ := s.atTurn.clearTgt.completeStep_frame
    exact ⟨_, heq, State.finished_iff.mpr ⟨hcl.trans (hline.trans hl), hcp.trans (hprog.trans hp)⟩⟩
  · exact absurd hloss hturn

/-! ### Runs (R176) -/

theorem State.hostWrite_ne_refused (s : State) (off : Int) (w : Width) (v : Word) (r : Refusal) :
    s.hostWrite off w v ≠ .refused r := by
  unfold State.hostWrite
  split
  · nofun
  · rename_i reg _
    cases reg with
    | cmd =>
      simp only [State.writeReg, State.command]
      split
      · nofun
      · exact exec_ne_refused _ _ r
    | _ => nofun
  · nofun

theorem State.hostStep_ne_refused (s : State) (line : HostLine) (r : Refusal) : s.hostStep line ≠ .refused r := by
  cases line with
  | write addr width value => exact State.hostWrite_ne_refused _ _ _ _ r
  | read addr width again =>
    simp only [State.hostStep]
    split <;> nofun

theorem Progress.continueComposite_ne_refused (p : Progress) (r : State × Bool) (onFail : State → State) (f : Refusal) :
    p.continueComposite r onFail ≠ .refused f := by
  rcases p.continueComposite_cases r onFail with ⟨-, heq⟩ | ⟨-, heq⟩ <;> rw [heq] <;> nofun

theorem State.microStep_ne_refused (s : State) (p : Progress) (r : Refusal) : s.microStep p ≠ .refused r := by
  unfold State.microStep
  split
  · unfold State.nvWriteStep
    split
    · exact Progress.continueComposite_ne_refused _ _ _ _
    · split
      · exact Progress.continueComposite_ne_refused _ _ _ _
      · nofun
  · simp only [State.otpWriteStep]
    split_ifs
    on_goal 7 => nofun
    all_goals exact Progress.continueComposite_ne_refused _ _ _ _

theorem step_ne_refused (s : State) (r : Refusal) : step s ≠ .refused r := by
  rcases step_cases s with ⟨-, heq⟩ | ⟨-, -, line, -, heq⟩ | ⟨-, p, -, heq⟩ | ⟨-, -, -, heq⟩ | ⟨-, -, -, heq⟩ | ⟨-, heq⟩ <;>
    rw [heq]
  · nofun
  · exact State.hostStep_ne_refused _ _ r
  · exact State.microStep_ne_refused _ _ r
  · nofun
  · nofun
  · nofun

/-- What a run of at most `n` steps can answer. -/
theorem State.run_cases (s : State) (n : Nat) :
    (∃ t, s.run n = .ended t ∧ t.over = true) ∨ (∃ f t, s.run n = .faulted f t) ∨ ∃ t, s.run n = .going t := by
  induction n generalizing s with
  | zero =>
    cases hover : s.over with
    | true => exact .inl ⟨s, State.run_of_over hover 0, hover⟩
    | false => exact .inr (.inr ⟨s, by simp [State.run, hover]⟩)
  | succ n ih =>
    cases hover : s.over with
    | true => exact .inl ⟨s, State.run_of_over hover _, hover⟩
    | false =>
      cases hstep : step s with
      | next t => rw [State.run_succ_next hover hstep]; exact ih t
      | fault f => exact .inr (.inl ⟨f, s, State.run_succ_fault hover hstep n⟩)
      | refused r => exact absurd hstep (step_ne_refused s r)

/-- A run that has ended, or has raised a fault, takes no further step. -/
theorem State.run_stable {s : State} {n m : Nat} (h : ∀ t, s.run n ≠ .going t) (hnm : n ≤ m) : s.run m = s.run n := by
  induction n generalizing s m with
  | zero =>
    cases hover : s.over with
    | true => rw [State.run_of_over hover, State.run_of_over hover]
    | false => exact absurd (by simp [State.run, hover]) (h s)
  | succ n ih =>
    cases hover : s.over with
    | true => rw [State.run_of_over hover, State.run_of_over hover]
    | false =>
      obtain ⟨m, rfl⟩ : ∃ k, m = k + 1 := ⟨m - 1, by omega⟩
      cases hstep : step s with
      | next t =>
        rw [State.run_succ_next hover hstep] at h ⊢
        rw [State.run_succ_next hover hstep]
        exact ih h (by omega)
      | fault f => rw [State.run_succ_fault hover hstep, State.run_succ_fault hover hstep]
      | refused r => exact absurd hstep (step_ne_refused s r)

/-- Two answers of one run that are not "going" are the same. -/
theorem State.run_unique {s : State} {n m : Nat} {a b : RunStatus} (hn : s.run n = a) (hm : s.run m = b)
    (ha : ∀ t, a ≠ .going t) (hb : ∀ t, b ≠ .going t) : a = b := by
  rcases Nat.le_total n m with h | h
  · rw [← hn, ← hm, State.run_stable (by rw [hn]; exact ha) h]
  · rw [← hn, ← hm, State.run_stable (by rw [hm]; exact hb) h]

theorem run_trichotomy (s : State) : (∃ t, s.EndsAt t) ∨ (∃ f t, s.FaultsAt f t) ∨ s.RunsForever := by
  by_cases hforever : s.RunsForever
  · exact .inr (.inr hforever)
  · obtain ⟨n, hn⟩ := not_forall.mp hforever
    rcases s.run_cases n with ⟨t, ht, -⟩ | ⟨f, t, ht⟩ | hgoing
    · exact .inl ⟨t, n, ht⟩
    · exact .inr (.inl ⟨f, t, n, ht⟩)
    · exact absurd hgoing hn

theorem endsAt_excludes {s t u : State} {f : Fault} (h : s.EndsAt t) :
    t.finished = true ∧ ¬s.FaultsAt f u ∧ ¬s.RunsForever := by
  obtain ⟨n, hn⟩ := h
  refine ⟨?_, fun ⟨m, hm⟩ => ?_, fun hforever => ?_⟩
  · rcases s.run_cases n with ⟨t', ht, hover⟩ | ⟨f, t', ht⟩ | ⟨t', ht⟩
    · rw [hn] at ht
      cases ht
      rw [State.over, Bool.and_eq_true] at hover
      exact hover.1
    · rw [hn] at ht; cases ht
    · rw [hn] at ht; cases ht
  · cases State.run_unique hn hm (fun _ h => by cases h) (fun _ h => by cases h)
  · obtain ⟨t', ht⟩ := hforever n
    rw [hn] at ht; cases ht

theorem faultsAt_excludes {s u : State} {f : Fault} (h : s.FaultsAt f u) : ¬s.RunsForever := fun hforever => by
  obtain ⟨n, hn⟩ := h
  obtain ⟨t, ht⟩ := hforever n
  rw [hn] at ht; cases ht

/-- Settles O42: the forms of a micro-step give the composites' part, `step_cases` the turns, and the fuel the runs. -/
theorem compositesEnd : Obligations.CompositesEnd := by
  refine ⟨fun s p hinv hp => ?_, fun s t => step_keeps_compositeInv, fun s p hp => step_passes_in_composite hp,
    fun s => step_keeps_finished, run_trichotomy, fun s t u f => ⟨endsAt_excludes, faultsAt_excludes⟩⟩
  obtain ⟨hnext, -⟩ := State.CompositeInv.next hinv hp
  obtain ⟨t, ht, -, hleaves⟩ := s.clearTgt.microStep_leaves hnext
  have hleft := State.microStepsLeft_of_some hp
  have hfirst := hnext.first
  have hlast := hnext.last
  refine ⟨t, ht, ?_, by omega, ?_⟩
  · cases hleaves with
    | goesOn hlt hprog _ _ _ => rw [State.microStepsLeft_of_some hprog, hleft]; simp only []; omega
    | fails _ hprog _ _ _ => rw [State.microStepsLeft_of_none hprog]; omega
    | ends _ hprog _ _ _ => rw [State.microStepsLeft_of_none hprog]; omega
  · cases hleaves with
    | goesOn hlt hprog hrc hlock hob => exact ⟨fun _ => .inl ⟨hprog, hrc, hlock, hob⟩, fun h => absurd h (by omega)⟩
    | fails hlt hprog hrc hlock hob =>
      refine ⟨fun _ => .inr ⟨hprog, hrc, hob, hlock.trans ?_⟩, fun h => absurd h (by omega)⟩
      cases p.command <;> rfl
    | ends heq hprog hrc hlock hob =>
      refine ⟨fun h => absurd h (by omega), fun _ => ⟨hprog, hrc, hlock, hob.trans ?_⟩⟩
      cases p.command <;> rfl

end Sys2Proof.Machine
end


section
/-! Proofs of the statements about whole composites: `NV_WRITE` (R152) and `OTP_WRITE` with `OTP_READ` (R153–R155). -/

namespace Sys2Proof.Machine

-- Many short elaborations at once would start a thread each.
set_option Elab.async false

/-! ### Draws along the tape (log 4) -/

/-- The draw a state with the tape of `s` from `j` on takes next. -/
theorem State.drawBool_of_drop {s t : State} {j : Nat} (hj : j < s.drawTape.length) (ht : t.drawTape = s.drawTape.drop j) :
    t.drawBool.1 = (s.drawTape[j] % 2 == 1) ∧
      ∀ tape n, t.draw.2 = t.withDraws tape n → tape = s.drawTape.drop (j + 1) := by
  have htape : t.drawTape = s.drawTape[j] :: s.drawTape.drop (j + 1) := by rw [ht, List.drop_eq_getElem_cons hj]
  have hdraw : t.draw = (s.drawTape[j], { t with drawTape := s.drawTape.drop (j + 1) }) := by rw [State.draw, htape]
  refine ⟨by rw [State.drawBool, hdraw], fun tape n h => ?_⟩
  rw [hdraw] at h
  exact (congrArg State.drawTape h).symm

theorem State.NoFailure.draw {s t : State} {n j : Nat} (h : s.NoFailure n) (hj : j < n) (ht : t.drawTape = s.drawTape.drop j) :
    t.drawBool.1 = false ∧ ∀ tape n, t.draw.2 = t.withDraws tape n → tape = s.drawTape.drop (j + 1) := by
  obtain ⟨hlen, heven⟩ := h
  have hlt : j < s.drawTape.length := by omega
  obtain ⟨hbool, hrest⟩ := State.drawBool_of_drop hlt ht
  have hj0 : s.drawTape[j] % 2 = 0 := heven _ (List.mem_take_iff_getElem.mpr ⟨j, by omega, rfl⟩)
  refine ⟨?_, hrest⟩
  rw [hbool, hj0]
  rfl

theorem State.FirstFailure.draw {s t : State} {i : Nat} (h : s.FirstFailure i) (ht : t.drawTape = s.drawTape.drop i) :
    t.drawBool.1 = true := by
  obtain ⟨-, hodd⟩ := h
  have hlt : i < s.drawTape.length := by
    by_contra hge
    rw [List.getD_eq_default _ _ (by omega)] at hodd
    cases hodd
  rw [(State.drawBool_of_drop hlt ht).1, ← List.getD_eq_getElem _ 0 hlt, hodd]
  rfl

theorem State.NoFailure.mono {s : State} {n m : Nat} (h : s.NoFailure n) (hm : m ≤ n) : s.NoFailure m := by
  obtain ⟨hlen, heven⟩ := h
  refine ⟨by omega, fun d hd => heven d ?_⟩
  rw [← Nat.min_eq_left hm, ← List.take_take] at hd
  exact List.mem_of_mem_take hd

/-! ### Runs of micro-steps -/

/-- One more micro-step at the end of a run of them. -/
theorem State.runMicroSteps_snoc {s t u : State} {p : Progress} {n : Nat} (h : s.runMicroSteps n = .next t)
    (hp : t.progress = some p) (hstep : t.clearTgt.microStep p = .next u) : s.runMicroSteps (n + 1) = .next u := by
  induction n generalizing s with
  | zero =>
    cases h
    rw [State.runMicroSteps, hp]
    simp only [hstep]
    rfl
  | succ n ih =>
    rw [State.runMicroSteps] at h ⊢
    cases hs : s.progress with
    | none => rw [hs] at h; cases h; rw [hs] at hp; cases hp
    | some q =>
      rw [hs] at h
      cases hq : s.clearTgt.microStep q with
      | next v => simp only [hq] at h ⊢; exact ih h
      | fault f => simp only [hq] at h; cases h
      | refused r => simp only [hq] at h; cases h

theorem Progress.continueComposite_of_ok {p : Progress} {u : State} {b : Bool} (h : b = false) (onFail : State → State) :
    p.continueComposite (u, !b) onFail = .next { u with progress := some { p with index := p.index + 1 } } := by
  rw [h]; rfl

theorem Progress.continueComposite_of_failed {p : Progress} {u : State} {b : Bool} (h : b = true) (onFail : State → State) :
    p.continueComposite (u, !b) onFail = .next { onFail u with progress := none, rc := .writeFail } := by
  rw [h]; rfl

/-! ### What a micro-step that is let through leaves (R140) -/

/-- No micro-step changes the parameters or a lock. -/
structure MicroKept (s v : State) : Prop where
  cfg : v.cfg = s.cfg
  lock : v.lock = s.lock
  oblock : v.oblock = s.oblock

/-- Storing NV bytes under a target, after draws: the fields it keeps. -/
theorem State.setNv_kept (s : State) (g : TornTarget) (t : List Nat) (n lo : Nat) (bs : List Byte) :
    MicroKept s (((s.setTgt g).withDraws t n).setNv lo bs) ∧
      (((s.setTgt g).withDraws t n).setNv lo bs).nvWp = s.nvWp ∧
      (((s.setTgt g).withDraws t n).setNv lo bs).nvOptWp = s.nvOptWp := ⟨⟨rfl, rfl, rfl⟩, rfl, rfl⟩

/-- The bytes of a range that were just stored, and the others. -/
theorem State.nvByte_setNv_kept (s : State) (g : TornTarget) (t : List Nat) (n lo : Nat) (bs : List Byte) :
    (∀ b, ¬(lo ≤ b ∧ b < lo + bs.length) → (((s.setTgt g).withDraws t n).setNv lo bs).nvByte b = s.nvByte b) ∧
      ∀ k (hk : k < bs.length), (((s.setTgt g).withDraws t n).setNv lo bs).nvByte (lo + k) = bs[k] :=
  ⟨fun _ hb => (State.nvByte_setNv_outside (s := (s.setTgt g).withDraws t n) (by omega)).trans rfl,
    fun _ hk => State.nvByte_setNv_inside hk⟩

theorem State.nvEraseStep_leaves {s : State} {k : Nat} (hlock : s.lock = false) (hwp : s.wpBit k = false) :
    ∃ v, s.nvEraseStep k = (v, !s.drawBool.1) ∧ MicroKept s v ∧ v.nvWp = s.nvWp ∧ v.nvOptWp = s.nvOptWp ∧
      (∀ b, ¬s.cfg.InSector k b → v.nvByte b = s.nvByte b) ∧
      (s.drawBool.1 = false → (∀ b, s.cfg.InSector k b → v.nvByte b = 0xFF) ∧ s.draw.2 = s.withDraws v.drawTape v.drawCount) := by
  obtain ⟨bs, t, n, hlen, hstep, hok⟩ := State.nvEraseStep_draw hlock hwp
  obtain ⟨hkept, hnvWp, hopt⟩ := s.setNv_kept (.bytes (s.cfg.sb k) (s.cfg.sz k)) t n (s.cfg.sb k) bs
  obtain ⟨hout, hin⟩ := s.nvByte_setNv_kept (.bytes (s.cfg.sb k) (s.cfg.sz k)) t n (s.cfg.sb k) bs
  refine ⟨_, hstep, hkept, hnvWp, hopt, fun b hb => hout b (by rw [hlen]; exact hb), fun hno => ?_⟩
  obtain ⟨rfl, hdraw⟩ := hok hno
  refine ⟨fun b hb => ?_, hdraw⟩
  obtain ⟨hlo, hhi⟩ := hb
  have hset := hin (b - s.cfg.sb k) (by omega)
  rwa [Nat.add_sub_cancel' hlo, List.getElem_replicate] at hset

theorem State.nvProgramStep_leaves {s : State} {a : Nat} {v : List Byte} (hlock : s.lock = false)
    (hwp : s.wpBit (s.sectorOf a) = false) (herased : ∀ k, k < v.length → s.nvByte (a + k) = 0xFF) :
    ∃ u, s.nvProgramStep a v = (u, !s.drawBool.1) ∧ MicroKept s u ∧ u.nvWp = s.nvWp ∧ u.nvOptWp = s.nvOptWp ∧
      (∀ b, ¬(a ≤ b ∧ b < a + v.length) → u.nvByte b = s.nvByte b) ∧
      (s.drawBool.1 = false → (∀ k (hk : k < v.length), u.nvByte (a + k) = v[k]) ∧
        s.draw.2 = s.withDraws u.drawTape u.drawCount) := by
  obtain ⟨bs, t, n, hlen, hstep, hok⟩ := State.nvProgramStep_draw hlock hwp herased
  obtain ⟨hkept, hnvWp, hopt⟩ := s.setNv_kept (.bytes a v.length) t n a bs
  obtain ⟨hout, hin⟩ := s.nvByte_setNv_kept (.bytes a v.length) t n a bs
  refine ⟨_, hstep, hkept, hnvWp, hopt, fun b hb => hout b (by rw [hlen]; exact hb), fun hno => ?_⟩
  obtain ⟨rfl, hdraw⟩ := hok hno
  exact ⟨hin, hdraw⟩

theorem State.optWriteStep_leaves {s : State} {k : Nat} (bit : Bool) (hob : s.oblock = false) (hk : k < 32) :
    ∃ v, s.optWriteStep k bit = (v, !s.drawBool.1) ∧ MicroKept s v ∧ v.nvWp = s.nvWp ∧ v.nv = s.nv ∧
      (s.drawBool.1 = false → v.nvOptWp.getLsbD k = bit ∧ s.draw.2 = s.withDraws v.drawTape v.drawCount) := by
  obtain ⟨b, t, n, hstep, hok⟩ := State.optWriteStep_draw k bit hob
  refine ⟨_, hstep, ⟨rfl, rfl, rfl⟩, rfl, rfl, fun hno => ?_⟩
  obtain ⟨rfl, hdraw⟩ := hok hno
  refine ⟨?_, hdraw⟩
  rw [State.setOptWp_nvOptWp, setBit_getLsbD, if_pos ⟨rfl, hk⟩]

theorem State.optLaunchStep_leaves {s : State} (hob : s.oblock = false) :
    ∃ v, s.optLaunchStep = (v, !s.drawBool.1) ∧ MicroKept s v ∧ v.nvOptWp = s.nvOptWp ∧ v.nv = s.nv ∧
      (s.drawBool.1 = false → v.nvWp = s.nvOptWp ∧ s.draw.2 = s.withDraws v.drawTape v.drawCount) := by
  obtain ⟨t, n, hd⟩ := s.draw_eq
  rw [State.optLaunchStep_draw hob, hd]
  refine ⟨_, rfl, ⟨rfl, rfl, rfl⟩, rfl, rfl, fun hno => ⟨?_, rfl⟩⟩
  rw [hno]
  rfl

/-! ### `NV_WRITE` (R152) -/

section nvWrite

variable {s : State} {f0 : Bool} {a n xo : Word} {q : List Byte}

/-- The composite in progress at its micro-step `index`. -/
abbrev nvWriteProgress (f0 : Bool) (a n xo : Word) (q : List Byte) (index : Nat) : Progress := ⟨.nvWrite f0 a n xo q, index⟩

/-- Flash control is unlocked for the composite, and what it does not touch is as in `s`; `taken` draws are gone. -/
structure NvWriteOpen (s : State) (taken : Nat) (t : State) : Prop where
  cfg : t.cfg = s.cfg
  lock : t.lock = false
  oblock : t.oblock = s.oblock
  nvWp : t.nvWp = s.nvWp
  nvOptWp : t.nvOptWp = s.nvOptWp
  tape : t.drawTape = s.drawTape.drop taken

/-- `NV_WRITE` has erased its sector and programmed `j` bytes. -/
structure NvWriteAt (s : State) (f0 : Bool) (a n xo : Word) (q : List Byte) (j : Nat) (t : State) : Prop extends
    NvWriteOpen s (j + 1) t where
  progress : t.progress = some (nvWriteProgress f0 a n xo q (j + 2))
  done : ∀ k, k < j → t.nvByte (a.toNat + k) = q.getD k 0
  blank : ∀ b, s.cfg.InSector (s.sectorOf a.toNat) b → ¬(a.toNat ≤ b ∧ b < a.toNat + j) → t.nvByte b = 0xFF
  outside : ∀ b, ¬s.cfg.InSector (s.sectorOf a.toNat) b → t.nvByte b = s.nvByte b

/-- The state in which `NV_WRITE` ended with a failure of micro-step `i` + 1. -/
structure NvWriteFailed (s : State) (a : Word) (q : List Byte) (i : Nat) (t : State) : Prop where
  rc : t.rc = .writeFail
  lock : t.lock = true
  oblock : t.oblock = s.oblock
  progress : t.progress = none
  nvOptWp : t.nvOptWp = s.nvOptWp
  nvWp : t.nvWp = s.nvWp
  done : ∀ k, k + 1 < i → t.nvByte (a.toNat + k) = q.getD k 0
  blank : ∀ b, 1 ≤ i → s.cfg.InSector (s.sectorOf a.toNat) b → ¬(a.toNat ≤ b ∧ b < a.toNat + i) → t.nvByte b = 0xFF
  outside : ∀ b, ¬s.cfg.InSector (s.sectorOf a.toNat) b → t.nvByte b = s.nvByte b

theorem nvWrite_erase_eq (t : State) :
    t.clearTgt.microStep (nvWriteProgress f0 a n xo q 1) =
      (nvWriteProgress f0 a n xo q 1).continueComposite (t.clearTgt.nvEraseStep (t.sectorOf a.toNat)) State.relock := by
  change t.clearTgt.nvWriteStep (nvWriteProgress f0 a n xo q 1) a.toNat q = _
  rw [State.nvWriteStep, if_pos (show (nvWriteProgress f0 a n xo q 1).index ≤ 1 from Nat.le_refl 1)]
  rfl

theorem nvWrite_program_eq (t : State) {j : Nat} (hj : j < q.length) :
    t.clearTgt.microStep (nvWriteProgress f0 a n xo q (j + 2)) =
      (nvWriteProgress f0 a n xo q (j + 2)).continueComposite (t.clearTgt.nvProgramStep (a.toNat + j) [q[j]]) State.relock := by
  change t.clearTgt.nvWriteStep (nvWriteProgress f0 a n xo q (j + 2)) a.toNat q = _
  rw [State.nvWriteStep, if_neg (show ¬j + 2 ≤ 1 by omega)]
  simp only [Nat.add_sub_cancel, List.getElem?_eq_getElem hj]

theorem nvWrite_last_eq (t : State) :
    t.clearTgt.microStep (nvWriteProgress f0 a n xo q (q.length + 2)) = t.clearTgt.relock.endComposite .ok := by
  change t.clearTgt.nvWriteStep (nvWriteProgress f0 a n xo q (q.length + 2)) a.toNat q = _
  rw [State.nvWriteStep, if_neg (show ¬q.length + 2 ≤ 1 by omega)]
  simp only [Nat.add_sub_cancel, List.getElem?_eq_none (Nat.le_refl q.length)]

/-- The erase of `NV_WRITE`: done, or failed with its draw. -/
theorem NvWriteOpen.erase {u : State} (h : NvWriteOpen s 0 u) (hnv : u.nv = s.nv)
    (hwp : s.nvWp.getLsbD (s.sectorOf a.toNat) = false) :
    (s.NoFailure 1 → ∃ t, u.clearTgt.microStep (nvWriteProgress f0 a n xo q 1) = .next t ∧ NvWriteAt s f0 a n xo q 0 t) ∧
    (s.FirstFailure 0 → ∃ t, u.clearTgt.microStep (nvWriteProgress f0 a n xo q 1) = .next t ∧ NvWriteFailed s a q 0 t) := by
  obtain ⟨hcfg, hlock, hob, hnvWp, hopt, htape⟩ := h
  have hsec : u.sectorOf a.toNat = s.sectorOf a.toNat := by rw [State.sectorOf, State.sectorOf, hcfg]
  obtain ⟨v, hstep, ⟨vcfg, vlock, vob⟩, vwp, vopt, vout, vok⟩ :=
    State.nvEraseStep_leaves (s := u.clearTgt) (k := s.sectorOf a.toNat) hlock (by rw [← hwp, ← hnvWp]; rfl)
  rw [show u.clearTgt.cfg = s.cfg from hcfg] at vcfg vout vok
  have hout : ∀ b, ¬s.cfg.InSector (s.sectorOf a.toNat) b → v.nvByte b = s.nvByte b := fun b hb =>
    (vout b hb).trans (State.nvByte_congr hcfg hnv b)
  rw [nvWrite_erase_eq, hsec, hstep]
  refine ⟨fun hno => ?_, fun hfirst => ?_⟩
  · obtain ⟨hno, hrest⟩ := hno.draw (t := u.clearTgt) Nat.zero_lt_one htape
    obtain ⟨vblank, vdraw⟩ := vok hno
    exact ⟨_, Progress.continueComposite_of_ok hno _,
      ⟨vcfg, vlock.trans hlock, vob.trans hob, vwp.trans hnvWp, vopt.trans hopt, hrest _ _ vdraw⟩, rfl, nofun,
      fun b hb _ => vblank b hb, hout⟩
  · exact ⟨_, Progress.continueComposite_of_failed (hfirst.draw (t := u.clearTgt) htape) _, rfl, rfl, vob.trans hob, rfl,
      vopt.trans hopt, vwp.trans hnvWp, nofun, nofun, hout⟩

/-- A byte of the payload lies in the sector of the address. -/
theorem State.payload_inSector {k : Nat} (hsec : s.sectorOf a.toNat < s.cfg.nvSectors)
    (hfit : a.toNat + q.length ≤ s.cfg.sb (s.sectorOf a.toNat) + s.cfg.sz (s.sectorOf a.toNat)) (hk : k < q.length) :
    s.cfg.InSector (s.sectorOf a.toNat) (a.toNat + k) := by
  obtain ⟨hlo, -⟩ := State.inSector_sectorOf hsec
  exact ⟨by omega, by omega⟩

/-- The program of one byte of `NV_WRITE`: done, or failed with its draw. -/
theorem NvWriteAt.program {t : State} {j : Nat} (h : NvWriteAt s f0 a n xo q j t) (hj : j < q.length)
    (hwp : s.nvWp.getLsbD (s.sectorOf a.toNat) = false) (hsec : s.sectorOf a.toNat < s.cfg.nvSectors)
    (hfit : a.toNat + q.length ≤ s.cfg.sb (s.sectorOf a.toNat) + s.cfg.sz (s.sectorOf a.toNat)) :
    (s.NoFailure (j + 2) → ∃ u, t.clearTgt.microStep (nvWriteProgress f0 a n xo q (j + 2)) = .next u ∧
      NvWriteAt s f0 a n xo q (j + 1) u) ∧
    (s.FirstFailure (j + 1) → ∃ u, t.clearTgt.microStep (nvWriteProgress f0 a n xo q (j + 2)) = .next u ∧
      NvWriteFailed s a q (j + 1) u) := by
  obtain ⟨⟨hcfg, hlock, hob, hnvWp, hopt, htape⟩, -, hdone, hblank, hout⟩ := h
  have hin := State.payload_inSector hsec hfit hj
  have hsector : t.clearTgt.sectorOf (a.toNat + j) = s.sectorOf a.toNat := by
    rw [← State.sectorOf_of_inSector hin, State.sectorOf, State.sectorOf, ← hcfg]; rfl
  obtain ⟨v, hstep, ⟨vcfg, vlock, vob⟩, vwp, vopt, vout, vok⟩ :=
    State.nvProgramStep_leaves (s := t.clearTgt) (a := a.toNat + j) (v := [q[j]]) hlock
      (by rw [hsector, ← hwp, ← hnvWp]; rfl)
      (fun k hk => by
        obtain rfl : k = 0 := Nat.lt_one_iff.mp hk
        exact hblank _ hin (by omega))
  rw [List.length_singleton] at vout
  rw [nvWrite_program_eq t hj, hstep]
  have hother : ∀ b, b ≠ a.toNat + j → v.nvByte b = t.nvByte b := fun b hb => vout b (by omega)
  have hdone' : ∀ k, k < j → v.nvByte (a.toNat + k) = q.getD k 0 := fun k hk => (hother _ (by omega)).trans (hdone k hk)
  have hblank' : ∀ b, s.cfg.InSector (s.sectorOf a.toNat) b → ¬(a.toNat ≤ b ∧ b < a.toNat + (j + 1)) →
      v.nvByte b = 0xFF := fun b hb hne => (hother b (by omega)).trans (hblank b hb (by omega))
  have hout' : ∀ b, ¬s.cfg.InSector (s.sectorOf a.toNat) b → v.nvByte b = s.nvByte b := fun b hb =>
    (hother b fun he => hb (he ▸ hin)).trans (hout b hb)
  refine ⟨fun hno => ?_, fun hfirst => ?_⟩
  · obtain ⟨hno, hrest⟩ := hno.draw (t := t.clearTgt) (Nat.lt_succ_self _) htape
    obtain ⟨vdone, vdraw⟩ := vok hno
    refine ⟨_, Progress.continueComposite_of_ok hno _,
      ⟨vcfg.trans hcfg, vlock.trans hlock, vob.trans hob, vwp.trans hnvWp, vopt.trans hopt, hrest _ _ vdraw⟩, rfl,
      fun k hk => ?_, hblank', hout'⟩
    by_cases hkj : k < j
    · exact hdone' k hkj
    · obtain rfl : k = j := by omega
      rw [List.getD_eq_getElem _ _ hj]
      exact vdone 0 Nat.one_pos
  · exact ⟨_, Progress.continueComposite_of_failed (hfirst.draw (t := t.clearTgt) htape) _, rfl, rfl, vob.trans hob, rfl,
      vopt.trans hopt, vwp.trans hnvWp, fun k hk => hdone' k (by omega), fun b _ => hblank' b, hout'⟩

/-- Micro-steps of `NV_WRITE` that do not fail. -/
theorem NvWriteOpen.run {u : State} {j : Nat} (h : NvWriteOpen s 0 u) (hnv : u.nv = s.nv)
    (hp : u.progress = some (nvWriteProgress f0 a n xo q 1))
    (hwp : s.nvWp.getLsbD (s.sectorOf a.toNat) = false) (hsec : s.sectorOf a.toNat < s.cfg.nvSectors)
    (hfit : a.toNat + q.length ≤ s.cfg.sb (s.sectorOf a.toNat) + s.cfg.sz (s.sectorOf a.toNat)) (hj : j ≤ q.length)
    (hno : s.NoFailure (j + 1)) : ∃ t, u.runMicroSteps (j + 1) = .next t ∧ NvWriteAt s f0 a n xo q j t := by
  induction j with
  | zero =>
    obtain ⟨t, hstep, ht⟩ := (h.erase hnv hwp).1 hno
    exact ⟨t, State.runMicroSteps_snoc rfl hp hstep, ht⟩
  | succ j ih =>
    obtain ⟨t, hrun, ht⟩ := ih (by omega) (hno.mono (by omega))
    obtain ⟨u', hstep, hu'⟩ := (ht.program hj hwp hsec hfit).1 hno
    exact ⟨u', State.runMicroSteps_snoc hrun ht.progress hstep, hu'⟩

end nvWrite

/-- What `NV_WRITE` with operands in range begins (R152, micro-step 0). -/
theorem exec_nvWrite_begins {s : State} {f0 : Bool} {a n xo : Word} {p q : List Byte} (ha : s.HasArg 0 a) (hn : s.HasArg 1 n)
    (hxo : s.HasArg 2 xo) (hxb : xo.toNat + n.toNat ≤ s.cfg.xbufBytes) (hmod : f0 = true → n.toNat % 4 = 0)
    (hlen : p.length = n.toNat) (hp : s.XbufHas xo.toNat p)
    (hq : q = if f0 then p ++ leBytes 4 (crc32Fn s.cfg (leWords p)).toNat else p)
    (hsec : s.sectorOf a.toNat < s.cfg.nvSectors)
    (hfit : a.toNat + q.length ≤ s.cfg.sb (s.sectorOf a.toNat) + s.cfg.sz (s.sectorOf a.toNat)) :
    ∃ u, exec (.nvWrite f0) s = .next u ∧ NvWriteOpen s 0 u ∧ u.nv = s.nv ∧
      u.progress = some (nvWriteProgress f0 a n xo q 1) := by
  have hqlen : a.toNat + q.length = a.toNat + n.toNat + (if f0 then 4 else 0) := by
    rw [hq, Nat.add_assoc]
    cases f0 <;> simp [hlen, leBytes_length]
  have hend := Params.sector_end_le s.cfg (s.sectorOf a.toNat)
  have hbegin := (compositesBeginAndOtpRead.1 s f0 a n xo ha hn hxo).2 p hxb hmod (by omega) hsec (by omega) hlen hp
  refine ⟨_, hbegin, ?_⟩
  cases f0 with
  | true => exact ⟨⟨rfl, rfl, rfl, rfl, rfl, rfl⟩, rfl, by rw [hq]; rfl⟩
  | false => exact ⟨⟨rfl, rfl, rfl, rfl, rfl, rfl⟩, rfl, by rw [hq]; rfl⟩

/-- Settles O40: the invariant `NvWriteAt` holds after the erase and after each byte. -/
theorem nvWriteProgramsThePayload : Obligations.NvWriteProgramsThePayload := by
  intro s f0 a n xo p q ha hn hxo hxb hmod hlen hp hq hsec hfit
  obtain ⟨u, hbegin, hopen, hnv, hprog⟩ := exec_nvWrite_begins ha hn hxo hxb hmod hlen hp hq hsec hfit
  refine ⟨u, hbegin, fun hwp hno => ?_, fun hwp => ?_, fun i hwp hi hfirst => ?_⟩
  · obtain ⟨t, hrun, ht⟩ := hopen.run hnv hprog hwp hsec hfit (Nat.le_refl _) hno
    exact ⟨_, State.runMicroSteps_snoc hrun ht.progress (nvWrite_last_eq t), rfl, rfl, ht.oblock, rfl, ht.nvOptWp, ht.nvWp,
      ht.done, ht.blank, ht.outside⟩
  · refine ⟨State.runMicroSteps_snoc rfl hprog ?_, hnv, hopen.nvOptWp, hopen.nvWp, hopen.oblock⟩
    have hsecu : u.sectorOf a.toNat = s.sectorOf a.toNat := by rw [State.sectorOf, State.sectorOf, hopen.cfg]
    rw [nvWrite_erase_eq, hsecu, State.nvEraseStep_refused (.inr (by rw [← hwp, ← hopen.nvWp]; rfl))]
    rfl
  · have hfailed : ∃ t, u.runMicroSteps (i + 1) = .next t ∧ NvWriteFailed s a q i t := by
      cases i with
      | zero =>
        obtain ⟨t, hstep, ht⟩ := (hopen.erase hnv hwp).2 hfirst
        exact ⟨t, State.runMicroSteps_snoc rfl hprog hstep, ht⟩
      | succ j =>
        obtain ⟨t, hrun, ht⟩ := hopen.run hnv hprog hwp hsec hfit (j := j) (by omega) hfirst.1
        obtain ⟨t', hstep, ht'⟩ := (ht.program (by omega) hwp hsec hfit).2 hfirst
        exact ⟨t', State.runMicroSteps_snoc hrun ht.progress hstep, ht'⟩
    obtain ⟨t, hrun, ht⟩ := hfailed
    exact ⟨t, hrun, ht.rc, ht.lock, ht.oblock, ht.progress, ht.nvOptWp, ht.nvWp, ht.done, ht.blank, ht.outside⟩

/-! ### `OTP_WRITE` and `OTP_READ` (R153, R154) -/

/-- `OTP_WRITE` with both locks open, and the bytes outside its sector as they were. -/
structure OtpWriteOpen (s t : State) : Prop where
  cfg : t.cfg = s.cfg
  lock : t.lock = false
  oblock : t.oblock = false
  outside : ∀ b, ¬s.cfg.InSector s.cfg.otpSector b → t.nvByte b = s.nvByte b

/-- What `OTP_WRITE` has done before its micro-step `j` (R154): the option cleared, loaded, the sector erased, the record
programmed word by word, the option set, loaded. -/
structure OtpWriteDone (s : State) (r : List Byte) (j : Nat) (t : State) : Prop where
  tape : t.drawTape = s.drawTape.drop (j - 1)
  optClear : 2 ≤ j → j ≤ 12 → t.nvOptWp.getLsbD s.cfg.otpSector = false
  optSet : 13 ≤ j → t.nvOptWp.getLsbD s.cfg.otpSector = true
  wpClear : 3 ≤ j → j ≤ 13 → t.nvWp.getLsbD s.cfg.otpSector = false
  wpSet : 14 ≤ j → t.nvWp.getLsbD s.cfg.otpSector = true
  record : 4 ≤ j → ∀ m, m < 32 → t.nvByte (s.cfg.sb s.cfg.otpSector + m) = if m < 4 * (j - 4) then r.getD m 0 else 0xFF

/-- The composite in progress at its micro-step `j`. -/
abbrev otpProgress (r : List Byte) (j : Nat) : Progress := ⟨.otpWrite r, j⟩

section otpWrite

variable {s t : State} {r : List Byte} {j : Nat}

/-- The outcome of micro-step `j` of `OTP_WRITE` but the last: it fails exactly if its draw says so. -/
def OtpMicroStep (s : State) (r : List Byte) (j : Nat) (t v : State) : Prop :=
  t.clearTgt.microStep (otpProgress r j) = (otpProgress r j).continueComposite (v, !t.clearTgt.drawBool.1) id ∧
    OtpWriteOpen s v ∧ (2 ≤ j → j ≤ 11 → v.nvOptWp.getLsbD s.cfg.otpSector = false) ∧
    (t.clearTgt.drawBool.1 = false →
      (∀ tape n, t.clearTgt.draw.2 = t.clearTgt.withDraws tape n → tape = s.drawTape.drop j) → OtpWriteDone s r (j + 1) v)

/-- Micro-steps 1 and 12: the option bit of the sector. -/
theorem OtpWriteDone.optWrite (ho : OtpWriteOpen s t) (h : OtpWriteDone s r j t) (hv : s.cfg.valid = true)
    (hj : j = 1 ∨ j = 12) : ∃ v, OtpMicroStep s r j t v := by
  obtain ⟨hcfg, hlock, hob, hout⟩ := ho
  obtain ⟨-, hn, hotp, -, -⟩ := Params.valid_bounds hv
  obtain ⟨v, hstep, ⟨vcfg, vlock, vob⟩, vwp, vnv, vok⟩ :=
    State.optWriteStep_leaves (s := t.clearTgt) (k := s.cfg.otpSector) (decide (j = 12)) hob (by omega)
  have vbyte : ∀ b, v.nvByte b = t.nvByte b := fun b => State.nvByte_congr vcfg vnv b
  refine ⟨v, ?_, ⟨vcfg.trans hcfg, vlock.trans hlock, vob.trans hob, fun b hb => (vbyte b).trans (hout b hb)⟩,
    fun h2 h11 => by omega, fun hno hrest => ?_⟩
  · rw [← hstep, ← hcfg]
    rcases hj with rfl | rfl <;> rfl
  · obtain ⟨vopt, vdraw⟩ := vok hno
    refine ⟨hrest _ _ vdraw, fun _ h12 => ?_, fun h13 => ?_, fun h3 h13 => ?_, fun h14 => by omega, fun h4 m hm => ?_⟩
    · rw [vopt]; simp; omega
    · rw [vopt]; simp; omega
    · rw [vwp]; exact h.wpClear (by omega) (by omega)
    · rw [vbyte, h.record (by omega) m hm, if_pos (by omega), if_pos (by omega)]

/-- Micro-steps 2 and 13: the options loaded. -/
theorem OtpWriteDone.optLaunch (ho : OtpWriteOpen s t) (h : OtpWriteDone s r j t) (hj : j = 2 ∨ j = 13) :
    ∃ v, OtpMicroStep s r j t v := by
  obtain ⟨hcfg, hlock, hob, hout⟩ := ho
  obtain ⟨v, hstep, ⟨vcfg, vlock, vob⟩, vopt, vnv, vok⟩ := State.optLaunchStep_leaves (s := t.clearTgt) hob
  have vbyte : ∀ b, v.nvByte b = t.nvByte b := fun b => State.nvByte_congr vcfg vnv b
  refine ⟨v, ?_, ⟨vcfg.trans hcfg, vlock.trans hlock, vob.trans hob, fun b hb => (vbyte b).trans (hout b hb)⟩,
    fun h2 h11 => by rw [vopt]; exact h.optClear h2 (by omega), fun hno hrest => ?_⟩
  · rw [← hstep]
    rcases hj with rfl | rfl <;> rfl
  · obtain ⟨vwp, vdraw⟩ := vok hno
    refine ⟨hrest _ _ vdraw, fun _ h12 => ?_, fun h13 => ?_, fun h3 h13 => ?_, fun h14 => ?_, fun h4 m hm => ?_⟩
    · rw [vopt]; exact h.optClear (by omega) (by omega)
    · rw [vopt]; exact h.optSet (by omega)
    · rw [vwp]; exact h.optClear (by omega) (by omega)
    · rw [vwp]; exact h.optSet (by omega)
    · rw [vbyte, h.record (by omega) m hm, if_pos (by omega), if_pos (by omega)]

/-- Micro-step 3: the sector erased. -/
theorem OtpWriteDone.erase (ho : OtpWriteOpen s t) (h : OtpWriteDone s r 3 t) (hv : s.cfg.valid = true) :
    ∃ v, OtpMicroStep s r 3 t v := by
  obtain ⟨hcfg, hlock, hob, hout⟩ := ho
  obtain ⟨-, -, -, hsz, -⟩ := Params.valid_bounds hv
  obtain ⟨v, hstep, ⟨vcfg, vlock, vob⟩, vwp, vopt, vout, vok⟩ :=
    State.nvEraseStep_leaves (s := t.clearTgt) (k := s.cfg.otpSector) hlock (h.wpClear (by omega) (by omega))
  rw [show t.clearTgt.cfg = s.cfg from hcfg] at vcfg vout vok
  refine ⟨v, ?_, ⟨vcfg, vlock.trans hlock, vob.trans hob, fun b hb => (vout b hb).trans (hout b hb)⟩,
    fun h2 h11 => by rw [vopt]; exact h.optClear h2 (by omega), fun hno hrest => ?_⟩
  · rw [← hstep, ← hcfg]; rfl
  · obtain ⟨vblank, vdraw⟩ := vok hno
    refine ⟨hrest _ _ vdraw, fun _ _ => ?_, fun h13 => by omega, fun _ _ => ?_, fun h14 => by omega, fun _ m hm => ?_⟩
    · rw [vopt]; exact h.optClear (by omega) (by omega)
    · rw [vwp]; exact h.wpClear (by omega) (by omega)
    · rw [if_neg (by omega)]
      exact vblank _ ⟨by omega, by omega⟩

/-- Micro-steps 4 to 11: a word of the record. -/
theorem OtpWriteDone.program (ho : OtpWriteOpen s t) (h : OtpWriteDone s r j t) (hv : s.cfg.valid = true) (hr : r.length = 32)
    (h4 : 4 ≤ j) (h11 : j ≤ 11) : ∃ v, OtpMicroStep s r j t v := by
  obtain ⟨hcfg, hlock, hob, hout⟩ := ho
  obtain ⟨-, -, -, hsz, -⟩ := Params.valid_bounds hv
  have hword : ((r.drop (4 * (j - 4))).take 4).length = 4 := by rw [List.length_take, List.length_drop]; omega
  have hin : ∀ m, m < 32 → s.cfg.InSector s.cfg.otpSector (s.cfg.sb s.cfg.otpSector + m) := fun m hm => ⟨by omega, by omega⟩
  have hsector : t.clearTgt.sectorOf (s.cfg.sb s.cfg.otpSector + 4 * (j - 4)) = s.cfg.otpSector := by
    have := State.sectorOf_of_inSector (hin (4 * (j - 4)) (by omega))
    rw [State.sectorOf, ← hcfg] at this
    rw [State.sectorOf]
    rw [← hcfg]
    exact this
  obtain ⟨v, hstep, ⟨vcfg, vlock, vob⟩, vwp, vopt, vout, vok⟩ :=
    State.nvProgramStep_leaves (s := t.clearTgt) (a := s.cfg.sb s.cfg.otpSector + 4 * (j - 4))
      (v := (r.drop (4 * (j - 4))).take 4) hlock (by rw [hsector]; exact h.wpClear (by omega) (by omega))
      (fun k hk => by
        rw [hword] at hk
        have := h.record h4 (4 * (j - 4) + k) (by omega)
        rw [if_neg (by omega), ← Nat.add_assoc] at this
        exact this)
  rw [hword] at vout
  refine ⟨v, ?_, ⟨vcfg.trans hcfg, vlock.trans hlock, vob.trans hob, fun b hb => (vout b ?_).trans (hout b hb)⟩,
    fun h2 _ => by rw [vopt]; exact h.optClear h2 (by omega), fun hno hrest => ?_⟩
  · rw [← hstep, ← hcfg]
    change State.otpWriteStep _ _ _ = _
    simp only [State.otpWriteStep, show ¬j ≤ 1 by omega, show ¬j = 2 by omega, show ¬j = 3 by omega, h11, if_true, if_false]
    rfl
  · intro hb'
    exact hb ⟨by omega, by omega⟩
  · obtain ⟨vdone, vdraw⟩ := vok hno
    refine ⟨hrest _ _ vdraw, fun _ _ => ?_, fun h13 => by omega, fun _ _ => ?_, fun h14 => by omega, fun _ m hm => ?_⟩
    · rw [vopt]; exact h.optClear (by omega) (by omega)
    · rw [vwp]; exact h.wpClear (by omega) (by omega)
    · by_cases hlo : m < 4 * (j - 4)
      · rw [vout _ (by omega), if_pos (by omega)]
        exact (h.record h4 m hm).trans (if_pos hlo)
      · by_cases hhi : m < 4 * (j - 4) + 4
        · have := vdone (m - 4 * (j - 4)) (by omega)
          rw [show s.cfg.sb s.cfg.otpSector + 4 * (j - 4) + (m - 4 * (j - 4)) = s.cfg.sb s.cfg.otpSector + m by omega] at this
          rw [this, if_pos (by omega), List.getD_eq_getElem _ _ (by omega)]
          simp only [List.getElem_take, List.getElem_drop]
          congr 1
          omega
        · rw [vout _ (by omega), if_neg (by omega)]
          exact (h.record h4 m hm).trans (if_neg hlo)

/-- Every micro-step of `OTP_WRITE` but the last. -/
theorem OtpWriteDone.microStep (ho : OtpWriteOpen s t) (h : OtpWriteDone s r j t) (hv : s.cfg.valid = true) (hr : r.length = 32)
    (h1 : 1 ≤ j) (h13 : j ≤ 13) : ∃ v, OtpMicroStep s r j t v := by
  by_cases hopt : j = 1 ∨ j = 12
  · exact h.optWrite ho hv hopt
  · by_cases hlaunch : j = 2 ∨ j = 13
    · exact h.optLaunch ho hlaunch
    · by_cases h3 : j = 3
      · subst h3; exact h.erase ho hv
      · exact h.program ho hv hr (by omega) (by omega)

/-- Micro-steps of `OTP_WRITE` that do not fail. -/
theorem OtpWriteDone.run {u : State} {i : Nat} (ho : OtpWriteOpen s u) (h : OtpWriteDone s r 1 u)
    (hp : u.progress = some (otpProgress r 1)) (hv : s.cfg.valid = true) (hr : r.length = 32) (hi : i ≤ 13)
    (hno : s.NoFailure i) :
    ∃ t, u.runMicroSteps i = .next t ∧ OtpWriteOpen s t ∧ OtpWriteDone s r (i + 1) t ∧
      t.progress = some (otpProgress r (i + 1)) := by
  induction i with
  | zero => exact ⟨u, rfl, ho, h, hp⟩
  | succ i ih =>
    obtain ⟨t, hrun, hto, ht, htp⟩ := ih (by omega) (hno.mono (by omega))
    obtain ⟨v, hstep, ⟨vcfg, vlock, vob, vout⟩, -, vdone⟩ := ht.microStep hto hv hr (by omega) (by omega)
    obtain ⟨hno, hrest⟩ := hno.draw (t := t.clearTgt) (Nat.lt_succ_self i) ht.tape
    obtain ⟨vtape, voc, vos, vwc, vws, vrec⟩ := vdone hno hrest
    exact ⟨_, State.runMicroSteps_snoc hrun htp (hstep.trans (Progress.continueComposite_of_ok hno _)),
      ⟨vcfg, vlock, vob, vout⟩, ⟨vtape, voc, vos, vwc, vws, vrec⟩, rfl⟩

end otpWrite

/-- Settles O41: `OtpWriteDone` says what each micro-step leaves, and `OTP_READ` looks at the option bit it ends with. -/
theorem otpRoundTrip : Obligations.OtpRoundTrip := by
  intro s r hv hr hx h1 h2
  have hbegin := (compositesBeginAndOtpRead.2.1 s r hr hx).2 h1 h2
  have hopen : OtpWriteOpen s { s with lock := false, oblock := false, progress := some (otpProgress r 1) } :=
    ⟨rfl, rfl, rfl, fun _ _ => rfl⟩
  have hdone : OtpWriteDone s r 1 { s with lock := false, oblock := false, progress := some (otpProgress r 1) } :=
    ⟨rfl, fun h => by omega, fun h => by omega, fun h => by omega, fun h => by omega, fun h => by omega⟩
  refine ⟨_, hbegin, fun hno => ?_, fun i hi hfirst => ?_⟩
  · obtain ⟨t, hrun, hto, ht, htp⟩ := hdone.run hopen rfl hv hr (Nat.le_refl 13) hno
    have hlast : t.clearTgt.microStep (otpProgress r 14) =
        .next { t.clearTgt with lock := true, oblock := true, progress := none, rc := .ok } := rfl
    obtain ⟨v, hread, heq, hrec, -⟩ := (compositesBeginAndOtpRead.2.2
      { t.clearTgt with lock := true, oblock := true, progress := none, rc := .ok }).2
      (by change t.nvOptWp.getLsbD t.cfg.otpSector = true; rw [hto.cfg]; exact ht.optSet (by omega))
    refine ⟨_, v, State.runMicroSteps_snoc hrun htp hlast, rfl, rfl, rfl, rfl, ht.wpSet (by omega), ht.optSet (by omega),
      hread, by rw [heq], fun k hk => ?_⟩
    rw [hr] at hk
    rw [Nat.zero_add, hrec k hk, List.getElem?_eq_getElem (by omega)]
    have hbyte := ht.record (by omega) k hk
    rw [if_pos (by omega), List.getD_eq_getElem _ _ (by omega), ← hto.cfg] at hbyte
    exact congrArg some hbyte
  · obtain ⟨t, hrun, hto, ht, htp⟩ := hdone.run hopen rfl hv hr (i := i) (by omega) hfirst.1
    obtain ⟨v, hstep, ⟨vcfg, vlock, vob, vout⟩, vopt, -⟩ := ht.microStep hto hv hr (by omega) (by omega)
    have hfail := hfirst.draw (t := t.clearTgt) ht.tape
    refine ⟨_, State.runMicroSteps_snoc hrun htp (hstep.trans (Progress.continueComposite_of_failed hfail _)),
      rfl, rfl, vlock, vob, vout, fun hi1 hi10 => ?_⟩
    refine (compositesBeginAndOtpRead.2.2 _).1 ?_
    change v.nvOptWp.getLsbD v.cfg.otpSector = false
    rw [vcfg]
    exact vopt (by omega) (by omega)

end Sys2Proof.Machine
end


section
/-! Proof of the statement about board-identity records (R156). -/

namespace Sys2Proof.Machine

-- Many short elaborations at once would start a thread each.
set_option Elab.async false

/-- The field of a record that starts where `pre` ends. -/
theorem recordByte_append {pre post : List Byte} {b : Byte} {n : Nat} (hn : pre.length = n) :
    recordByte (pre ++ b :: post) n = b := by
  rw [recordByte, List.getD_append_right _ _ _ _ (by omega), hn, Nat.sub_self]
  rfl

/-- A number of a record is read back at the offset it was laid at. -/
theorem recordU32_append {pre post : List Byte} {v : Word} {n : Nat} (hn : pre.length = n) :
    recordU32 (pre ++ (leBytes 4 v.toNat ++ post)) n = v := by
  rw [recordU32, List.drop_left' hn, List.take_left' (leBytes_length 4 _), leNat_leBytes,
    Nat.mod_eq_of_lt (b := 256 ^ 4) v.isLt, BitVec.ofNat_toNat, BitVec.setWidth_eq]

/-- A version 1 record (R156). -/
theorem BoardInfo.parse_record_v1 (cfg : Params) {pad : List Byte} (hpad : pad.length = 32) (t major minor : Byte) (date : Word) :
    ((BoardInfo.v1 t major minor date).record cfg pad).length = 32 ∧
      BoardInfo.parse cfg ((BoardInfo.v1 t major minor date).record cfg pad) = some (.v1 t major minor date) ∧
      ((BoardInfo.v1 t major minor date).record cfg pad).getD 0 0 = 1 := by
  have hrec : (BoardInfo.v1 t major minor date).record cfg pad = [1, t, major, minor] ++ (leBytes 4 date.toNat ++ pad.drop 8) :=
    List.append_assoc ..
  have hlen : ([1, t, major, minor] ++ (leBytes 4 date.toNat ++ pad.drop 8)).length = 32 := by
    simp [leBytes_length, hpad]
  have hdate : recordU32 ([1, t, major, minor] ++ (leBytes 4 date.toNat ++ pad.drop 8)) 4 = date := recordU32_append rfl
  rw [hrec]
  have hversion : recordByte ([1, t, major, minor] ++ (leBytes 4 date.toNat ++ pad.drop 8)) 0 = 1 := rfl
  refine ⟨hlen, ?_, hversion⟩
  simp only [BoardInfo.parse, hversion, if_true, hdate]
  rfl

/-- A version 2 record whose reserved bytes have the configured length (R156). -/
theorem BoardInfo.parse_record_v2 {cfg : Params} {pad res : List Byte} (hrsv : cfg.otpV2Rsv ≤ 23) (hpad : pad.length = 32)
    (hres : res.length = cfg.otpV2Rsv) (t sub major minor : Byte) (date : Word) :
    ((BoardInfo.v2 t sub res major minor date).record cfg pad).length = 32 ∧
      BoardInfo.parse cfg ((BoardInfo.v2 t sub res major minor date).record cfg pad) = some (.v2 t sub res major minor date) ∧
      ((BoardInfo.v2 t sub res major minor date).record cfg pad).getD 0 0 = 2 := by
  have hd2 : 5 + cfg.otpV2Rsv ≤ otpDateOffset cfg.otpV2Rsv ∧ otpDateOffset cfg.otpV2Rsv ≤ 28 := by
    unfold otpDateOffset; omega
  generalize hfill : (pad.drop (5 + cfg.otpV2Rsv)).take (otpDateOffset cfg.otpV2Rsv - (5 + cfg.otpV2Rsv)) = fill
  generalize htail : pad.drop (otpDateOffset cfg.otpV2Rsv + 4) = tail
  have hfillLen : fill.length = otpDateOffset cfg.otpV2Rsv - (5 + cfg.otpV2Rsv) := by
    rw [← hfill, List.length_take, List.length_drop]; omega
  have htailLen : tail.length = 28 - otpDateOffset cfg.otpV2Rsv := by rw [← htail, List.length_drop]; omega
  have hrec : (BoardInfo.v2 t sub res major minor date).record cfg pad =
      [2, t, sub] ++ (res ++ (major :: minor :: (fill ++ (leBytes 4 date.toNat ++ tail)))) := by
    simp only [BoardInfo.record, hfill, htail, List.append_assoc]
    rfl
  have hreserved : (([2, t, sub] ++ (res ++ (major :: minor :: (fill ++ (leBytes 4 date.toNat ++ tail))))).drop 3).take
      cfg.otpV2Rsv = res := by
    rw [List.drop_left' (i := 3) rfl, List.take_left' hres]
  have hmajor : recordByte ([2, t, sub] ++ (res ++ (major :: minor :: (fill ++ (leBytes 4 date.toNat ++ tail)))))
      (3 + cfg.otpV2Rsv) = major := by
    rw [← List.append_assoc]
    exact recordByte_append (by rw [List.length_append, hres]; rfl)
  have hminor : recordByte ([2, t, sub] ++ (res ++ (major :: minor :: (fill ++ (leBytes 4 date.toNat ++ tail)))))
      (4 + cfg.otpV2Rsv) = minor := by
    have hsplit : [2, t, sub] ++ (res ++ (major :: minor :: (fill ++ (leBytes 4 date.toNat ++ tail)))) =
        ([2, t, sub] ++ res ++ [major]) ++ minor :: (fill ++ (leBytes 4 date.toNat ++ tail)) := by simp
    rw [hsplit]
    exact recordByte_append (by simp only [List.length_append, hres, List.length_cons, List.length_nil]; omega)
  have hdate : recordU32 ([2, t, sub] ++ (res ++ (major :: minor :: (fill ++ (leBytes 4 date.toNat ++ tail)))))
      (otpDateOffset cfg.otpV2Rsv) = date := by
    have hsplit : [2, t, sub] ++ (res ++ (major :: minor :: (fill ++ (leBytes 4 date.toNat ++ tail)))) =
        ([2, t, sub] ++ res ++ [major, minor] ++ fill) ++ (leBytes 4 date.toNat ++ tail) := by simp
    rw [hsplit]
    exact recordU32_append (by simp only [List.length_append, hres, hfillLen, List.length_cons, List.length_nil]; omega)
  have hversion : recordByte ([2, t, sub] ++ (res ++ (major :: minor :: (fill ++ (leBytes 4 date.toNat ++ tail))))) 0 = 2 := rfl
  have hother : ¬(2 : Byte) = 1 := by decide
  rw [hrec]
  refine ⟨?_, ?_, hversion⟩
  · simp only [List.length_append, List.length_cons, List.length_nil, hres, hfillLen, htailLen, leBytes_length]
    omega
  · simp only [BoardInfo.parse, hversion, hother, if_true, if_false, hreserved, hmajor, hminor, hdate]
    rfl

/-- Settles O60: each field is read back at the offset it was laid at. -/
theorem boardInfoRecordsParseBack : Obligations.BoardInfoRecordsParseBack := by
  intro cfg pad info hrsv hpad hres
  cases info with
  | v1 t major minor date =>
    obtain ⟨hlen, hparse, hversion⟩ := BoardInfo.parse_record_v1 cfg hpad t major minor date
    exact ⟨hlen, hparse, .inl hversion⟩
  | v2 t sub reserved major minor date =>
    obtain ⟨hlen, hparse, hversion⟩ :=
      BoardInfo.parse_record_v2 hrsv hpad (hres t sub reserved major minor date rfl) t sub major minor date
    exact ⟨hlen, hparse, .inr hversion⟩

end Sys2Proof.Machine
end


section
/-! Proof of the statement about unwritten operands and data (R17, R27, R161, R162). -/

namespace Sys2Proof.Machine

-- Many short elaborations at once would start a thread each.
set_option Elab.async false

/-! ### What cannot be read -/

section samples

variable {s : State} {hf : Half} {c : Chan} {n : Nat}

theorem State.sample?_missing (h : s.SampleUnwritten hf c n) : s.sample? hf n c.toNat = none := State.sample?_eq_none.mpr h

/-- Samples one of which is unwritten. -/
theorem State.samples?_missing {lo m : Nat} (h : s.SampleUnwritten hf c n) (hlo : lo ≤ n) (hhi : n < lo + m) :
    s.samples? hf c.toNat lo m = none :=
  State.samples?_eq_none.mpr ⟨n - lo, by omega, by rw [Nat.add_sub_cancel' hlo]; exact State.sample?_missing h⟩

/-- A step from or to an unwritten sample. -/
theorem State.rising?_missing {i : Nat} (h : s.SampleUnwritten hf c n) (hi : i = n ∨ i + 1 = n) :
    s.rising? hf c.toNat i = none := by
  have hnone := State.sample?_missing h
  unfold State.rising?
  rcases hi with rfl | rfl
  · rw [hnone]
  · rw [hnone]
    cases s.sample? hf i c.toNat <;> rfl

/-- The forward walk comes to the unwritten sample before a flip (log 28). -/
theorem State.peakFwd?_missing {xs : List Int} (h : s.SampleUnwritten hf c n) (hn : n < s.acqS.toNat) (hS : 2 ≤ s.acqS.toNat)
    (hlen : xs.length = n) (hx : s.Samples hf c 0 xs) (hsame : ∀ j, 1 ≤ j → j + 2 ≤ n → risingAt xs j = risingAt xs 0) :
    s.peakFwd? hf c.toNat = none := by
  unfold State.peakFwd?
  simp only []
  rw [if_neg (by omega)]
  by_cases h2 : n < 2
  · rw [State.rising?_missing h (by omega)]
  · rw [State.rising?_of_samples hx (by omega), range_map_succ, range'_split (r := n - 1) (by omega) (by omega)]
    simp only []
    rw [firstFlip_of_none _ (State.rising?_missing h (by omega))]
    intro j hj
    rw [List.mem_range'_1] at hj
    rw [State.rising?_of_samples hx (by omega), hsame j hj.1 (by omega)]

/-- The backward walk comes to the unwritten sample before a flip. -/
theorem State.peakRev?_missing {xs : List Int} (h : s.SampleUnwritten hf c n) (hS : 2 ≤ s.acqS.toNat)
    (hlen : xs.length + n + 1 = s.acqS.toNat) (hx : s.Samples hf c (n + 1) xs)
    (hsame : ∀ j, j + 2 ≤ xs.length → risingAt xs j = risingAt xs (xs.length - 2)) : s.peakRev? hf c.toNat = none := by
  have hfrom : ∀ i, n < i → i + 1 < s.acqS.toNat → s.rising? hf c.toNat i = some (risingAt xs (i - (n + 1))) := fun i hlo hhi => by
    rw [← State.rising?_of_samples_from hx (by omega), Nat.add_sub_cancel' hlo]
  unfold State.peakRev?
  simp only []
  rw [if_neg (by omega)]
  by_cases h2 : xs.length < 2
  · rw [State.rising?_missing h (by omega)]
  · rw [hfrom _ (by omega) (by omega), range_map_succ, range'_split (r := n + 1) (by omega) (by omega)]
    simp only [List.reverse_append, List.reverse_cons, List.append_assoc, List.singleton_append]
    rw [firstFlip_of_none (i := n + 1) _ (State.rising?_missing (i := n) h (.inl rfl))]
    intro j hj
    rw [List.mem_reverse, List.mem_range'_1] at hj
    rw [hfrom _ (by omega) (by omega), hsame _ (by omega), show s.acqS.toNat - 2 - (n + 1) = xs.length - 2 by omega]

end samples

/-- Coefficients a byte of which is unwritten (R29). -/
theorem State.coefs?_missing {s : State} {i n k : Nat} (hlo : 4 * i ≤ k) (hhi : k < 4 * (i + n))
    (h : Memory.read unwritten s.hcoef k = none) : s.coefs? i n = none := by
  induction n generalizing i with
  | zero => omega
  | succ n ih =>
    rw [State.coefs?]
    by_cases hk : k < 4 * (i + 1)
    · rw [Memory.readBytes_eq_none.mpr ⟨k - 4 * i, by omega, by rw [Nat.add_sub_cancel' hlo]; exact h⟩]
    · rw [ih (by omega) (by omega)]
      cases Memory.readBytes unwritten s.hcoef (4 * i) 4 <;> rfl

/-- Table entries a byte of which is unwritten (R34). -/
theorem State.tabEntries?_missing {s : State} {i n k : Nat} (hlo : 2 * i ≤ k) (hhi : k < 2 * (i + n))
    (h : Memory.read unwritten s.tab k = none) : s.tabEntries? i n = none := by
  induction n generalizing i with
  | zero => omega
  | succ n ih =>
    rw [State.tabEntries?]
    by_cases hk : k < 2 * (i + 1)
    · rw [Memory.readBytes_eq_none.mpr ⟨k - 2 * i, by omega, by rw [Nat.add_sub_cancel' hlo]; exact h⟩]
    · rw [ih (by omega) (by omega)]
      cases Memory.readBytes unwritten s.tab (2 * i) 2 <;> rfl

/-! ### The commands that read samples (R78–R91, R95, R96, R112, R115) -/

section commands

variable {s : State} {h : HalfSel} {c : Chan} {hf : Half}

/-- The fault of a command that reads unwritten data. -/
abbrev State.unwrittenFault (s : State) : Result := .fault (.unwrittenData (.command s.cmd))

/-- The accessors and mutators that read the whole channel, or a window of it. -/
theorem exec_accessor_missing {n : Nat} (hacc : s.Accepts h c hf) (hn : n < s.acqS.toNat) (hmiss : s.SampleUnwritten hf c n) :
    (∀ i ∈ [Instr.acqMean h c, .acqAbsMean h c, .acqRms h c, .acqMax h c, .acqMin h c], exec i s = s.unwrittenFault) ∧
    ∀ x, s.HasArg 0 x → exec (.acqMeanShift h c) s = s.unwrittenFault ∧ exec (.acqSetOffset h c) s = s.unwrittenFault ∧
      ∀ y, s.HasArg 1 y → exec (.acqCma h c) s = s.unwrittenFault ∧
        (y.toNat < s.acqS.toNat → x.toNat ≤ n → n ≤ y.toNat →
          (x ≠ y → exec (.acqMeanLim h c) s = s.unwrittenFault) ∧ exec (.acqTrueRms h c) s = s.unwrittenFault) := by
  have hall : s.samples? hf c.toNat 0 s.acqS.toNat = none := State.samples?_missing hmiss (Nat.zero_le _) (by omega)
  have hwhole : ∀ (dflt : Result) (k : Half → List Int → Result),
      s.accessor h c dflt (fun hf => s.withData (s.samples? hf c.toNat 0 s.acqS.toNat) (k hf)) = s.unwrittenFault :=
    fun dflt k => by rw [State.accessor_of_accepts hacc, hall]; rfl
  refine ⟨?_, fun x hx => ⟨?_, ?_, fun y hy => ⟨?_, fun hyS hxn hny => ⟨fun hxy => ?_, ?_⟩⟩⟩⟩
  · simp only [List.forall_mem_cons]
    exact ⟨(exec_acqMean s h c).trans (hwhole _ _), (exec_acqAbsMean s h c).trans (hwhole _ _),
      (exec_acqRms s h c).trans (hwhole _ _), (exec_acqMax s h c).trans (hwhole _ _), (exec_acqMin s h c).trans (hwhole _ _), nofun⟩
  · rw [exec_acqMeanShift, execAcqMeanShift, State.withArg_of_hasArg hx]; exact hwhole _ _
  · rw [exec_acqSetOffset, execAcqSetOffset, State.withArg_of_hasArg hx]; exact hwhole _ _
  · rw [exec_acqCma, execAcqCma, State.withArg_of_hasArg hx, State.withArg_of_hasArg hy]; exact hwhole _ _
  · have hwindow : s.samples? hf c.toNat (u32 x) (u32 y - u32 x + 1) = none :=
      State.samples?_missing hmiss hxn (by simp only [u32]; omega)
    have hne : ¬x.toNat = y.toNat := fun he => hxy (BitVec.toNat_inj.mp he)
    rw [exec_acqMeanLim, execAcqMeanLim, State.withArg_of_hasArg hx, State.withArg_of_hasArg hy,
      State.accessor_of_accepts hacc, if_neg (by simp only [u32]; omega), hwindow]
    rfl
  · have hwindow : s.samples? hf c.toNat (u32 x) (u32 y - u32 x + 1) = none :=
      State.samples?_missing hmiss hxn (by simp only [u32]; omega)
    rw [exec_acqTrueRms, execAcqTrueRms, State.withArg_of_hasArg hx, State.withArg_of_hasArg hy,
      State.accessor_of_accepts hacc, if_neg (by simp only [u32]; omega), hwindow]
    rfl

/-- The searches, where one of the two walks comes to an unwritten sample. -/
theorem exec_peak_missing (hacc : s.Accepts h c hf) :
    (s.peakFwd? hf c.toNat = none → exec (.acqPeakFwd h c) s = s.unwrittenFault) ∧
      (s.peakRev? hf c.toNat = none → exec (.acqPeakRev h c) s = s.unwrittenFault) ∧
      (s.peakFwd? hf c.toNat = none ∨ s.peakRev? hf c.toNat = none → exec (.acqSineWin h c) s = s.unwrittenFault) := by
  refine ⟨fun hnone => ?_, fun hnone => ?_, fun hnone => ?_⟩
  · rw [exec_acqPeakFwd, execAcqPeakFwd, State.accessor_of_accepts hacc, hnone]; rfl
  · rw [exec_acqPeakRev, execAcqPeakRev, State.accessor_of_accepts hacc, hnone]; rfl
  · rw [exec_acqSineWin, execAcqSineWin, State.accessor_of_accepts hacc]
    cases hfwd : s.peakFwd? hf c.toNat with
    | none => rfl
    | some b =>
      rcases hnone with hno | hno
      · rw [hfwd] at hno; cases hno
      · rw [State.withData_some, hno]; rfl

/-- The commands on a named half that read its samples. -/
theorem exec_channel_missing {n : Nat} (hnames : s.Names h c hf) (hmiss : s.SampleUnwritten hf c n) :
    (n < s.acqS.toNat → exec (.hannDirect h c) s = s.unwrittenFault ∧
      (s.hannLen ≠ 0 → s.acqS.toNat ≤ s.hannLen.toNat → exec (.hannApply h c) s = s.unwrittenFault)) ∧
    (∀ m, s.HasArg 0 m → s.gz.n ≠ 0 → m.toNat ≤ s.acqS.toNat → n < m.toNat → exec (.gzFeed h c) s = s.unwrittenFault) ∧
    (s.fftLen ≠ 0 → s.w32 = false → s.fftLen.toNat ≤ s.acqS.toNat → n < s.fftLen.toNat →
      exec (.fftRun h c) s = s.unwrittenFault) := by
  have hhalf := State.channelHalf_eq_some.mpr hnames
  have hsome : ∀ m, n < m → s.samples? hf c.toNat 0 m = none := fun m hm =>
    State.samples?_missing hmiss (Nat.zero_le _) (by omega)
  have hwindow : n < s.acqS.toNat → ∀ ks, s.windowChannel hf c.toNat ks = s.unwrittenFault := fun hn ks => by
    rw [State.windowChannel, hsome _ hn]; rfl
  refine ⟨fun hn => ⟨?_, fun hlen hfit => ?_⟩, fun m hm hgz hfit hn => ?_, fun hlen hw hfit hn => ?_⟩
  · rw [exec_hannDirect, execHannDirect, hhalf]; exact hwindow hn _
  · rw [exec_hannApply, execHannApply, if_neg hlen, hhalf]
    refine (if_neg (Nat.not_lt.mpr hfit)).trans ?_
    cases s.coefs? 0 s.acqS.toNat with
    | none => rfl
    | some ks => exact hwindow hn ks
  · rw [exec_gzFeed, execGzFeed, State.withArg_of_hasArg hm, if_neg hgz, hhalf]
    refine (if_neg (Nat.not_lt.mpr hfit)).trans ?_
    rw [hsome (u32 m) hn]
    rfl
  · rw [exec_fftRun, execFftRun, if_neg hlen, hhalf]
    refine (if_neg ?_).trans ?_
    · rw [hw]; simp only [Bool.false_eq_true, false_or]; omega
    · rw [hsome _ hn]; rfl

end commands

/-! ### The commands that read tables and XBUF (R95, R116, R133, R152, R154) -/

theorem exec_hannApply_missing {s : State} {h : HalfSel} {c : Chan} {hf : Half} {n : Nat} (hnames : s.Names h c hf)
    (hlen : s.hannLen ≠ 0) (hfit : s.acqS.toNat ≤ s.hannLen.toNat) (hn : n < s.acqS.toNat)
    (hmiss : Memory.Missing s.hcoef (4 * n) 4) : exec (.hannApply h c) s = s.unwrittenFault := by
  obtain ⟨k, hk, hread⟩ := hmiss
  rw [exec_hannApply, execHannApply, if_neg hlen, State.channelHalf_eq_some.mpr hnames]
  refine (if_neg (Nat.not_lt.mpr hfit)).trans ?_
  rw [State.coefs?_missing (Nat.zero_le _) (by omega) hread]
  rfl

theorem exec_fftAbsMax_missing {s : State} {x : Word} (f0 : Bool) (hx : s.HasArg 0 x) (hlen : s.fftLen ≠ 0)
    (hfit : x.toNat ≤ 2 * s.fftLen.toNat) (hmiss : Memory.Missing s.tab 0 (2 * x.toNat)) :
    exec (.fftAbsMax f0) s = s.unwrittenFault := by
  obtain ⟨k, hk, hread⟩ := hmiss
  have hnone : s.tabEntries? 0 (u32 x) = none :=
    State.tabEntries?_missing (Nat.zero_le _) (by simp only [u32]; omega) hread
  rw [exec_fftAbsMax, execFftAbsMax, State.withArg_of_hasArg hx, if_neg hlen]
  refine (if_neg (Nat.not_lt.mpr hfit)).trans ?_
  rw [hnone]
  rfl

theorem State.crcCommand_missing {s : State} {x y : Word} {lenOk : Nat → Bool} (value : List Byte → Word) (hx : s.HasArg 0 x)
    (hy : s.HasArg 1 y) (hfit : x.toNat + y.toNat ≤ s.cfg.xbufBytes) (hok : lenOk y.toNat = true)
    (hmiss : Memory.Missing s.xbuf x.toNat y.toNat) : s.crcCommand lenOk value = s.unwrittenFault := by
  have hnone : s.xbufBytes? (u32 x) (u32 y) = none := Memory.readBytes_eq_none.mpr hmiss
  rw [State.crcCommand, State.withArg_of_hasArg hx, State.withArg_of_hasArg hy, hnone]
  refine (if_neg (Nat.not_lt.mpr hfit)).trans ((if_neg ?_).trans rfl)
  rw [Bool.not_eq_true']
  exact ne_false_of_eq_true hok

theorem exec_nvWrite_missing {s : State} {x y xo : Word} {f0 : Bool} (hx : s.HasArg 0 x) (hy : s.HasArg 1 y)
    (hxo : s.HasArg 2 xo) (hxb : xo.toNat + y.toNat ≤ s.cfg.xbufBytes) (hmod : f0 = true → y.toNat % 4 = 0)
    (hsec : s.sectorOf x.toNat < s.cfg.nvSectors)
    (hfit : x.toNat + y.toNat + (if f0 then 4 else 0) ≤ s.cfg.sb (s.sectorOf x.toNat) + s.cfg.sz (s.sectorOf x.toNat))
    (hmiss : Memory.Missing s.xbuf xo.toNat y.toNat) : exec (.nvWrite f0) s = s.unwrittenFault := by
  have hend := Params.sector_end_le s.cfg (s.sectorOf x.toNat)
  have hnone : s.xbufBytes? (u32 xo) (u32 y) = none := Memory.readBytes_eq_none.mpr hmiss
  rw [Nat.add_assoc] at hfit
  rw [exec_nvWrite, execNvWrite, State.withArg_of_hasArg hx, State.withArg_of_hasArg hy, State.withArg_of_hasArg hxo, hnone]
  refine (if_neg ?_).trans ((if_neg ?_).trans rfl)
  · rintro (h | h | h)
    · exact absurd h (Nat.not_lt.mpr hxb)
    · exact h.2 (hmod h.1)
    · exact absurd h (Nat.not_lt.mpr (hfit.trans hend))
  · rintro (h | h)
    · exact absurd h (Nat.not_le.mpr hsec)
    · exact absurd h (Nat.not_lt.mpr hfit)

/-- Settles O58: operand reads come first, and a read of unwritten data is the command's fault. -/
theorem unwrittenOperandsFault : Obligations.UnwrittenOperandsFault := by
  refine ⟨exec_eq_unwrittenArg_iff, ?_, ?_, ?_⟩
  · rintro s h c hf d hacc rfl
    obtain ⟨hfwd, hrev, hsine⟩ := exec_peak_missing hacc
    refine ⟨fun n hn hmiss => exec_accessor_missing hacc hn hmiss, fun n xs hn hS hmiss =>
      ⟨fun hlen hx hsame => ?_, fun hlen hx hsame => ?_⟩⟩
    · have hnone := State.peakFwd?_missing hmiss hn hS hlen hx hsame
      exact ⟨hfwd hnone, hsine (.inl hnone)⟩
    · have hnone := State.peakRev?_missing hmiss hS hlen hx hsame
      exact ⟨hrev hnone, hsine (.inr hnone)⟩
  · rintro s h c hf d n hnames rfl hmiss
    exact exec_channel_missing hnames hmiss
  · rintro s d rfl
    refine ⟨fun h c hf n hnames hlen hfit hn hmiss => exec_hannApply_missing hnames hlen hfit hn hmiss, fun hmiss => ?_,
      fun x hx => ⟨fun f0 hlen hfit hmiss => exec_fftAbsMax_missing f0 hx hlen hfit hmiss, fun y hy =>
        ⟨fun hfit hmiss => ⟨?_, ?_, fun hmod => ?_⟩, fun f0 xo hxo hxb hmod hsec hfit hmiss =>
          exec_nvWrite_missing hx hy hxo hxb hmod hsec hfit hmiss⟩⟩⟩
    · have hnone : s.xbufBytes? 0 Params.otpRecBytes = none := Memory.readBytes_eq_none.mpr hmiss
      rw [exec_otpWrite, execOtpWrite, hnone]
      rfl
    · exact (exec_crc4 s).trans (State.crcCommand_missing _ hx hy hfit rfl hmiss)
    · exact (exec_crc8 s).trans (State.crcCommand_missing _ hx hy hfit rfl hmiss)
    · exact (exec_crc32 s).trans (State.crcCommand_missing _ hx hy hfit (beq_iff_eq.mpr hmod) hmiss)

end Sys2Proof.Machine
end


section
/-! Proof that a command depends on no operand register but its own (R65): every operation of the model but the operand read
passes the operand registers through. -/

namespace Sys2Proof.Machine

-- Many short elaborations at once would start a thread each.
set_option Elab.async false

/-- The state with other contents of the operand registers. -/
def State.withArgs (s : State) (a : Vector MarkedReg 8) : State := { s with args := a }

/-! ### Operations that pass the operand registers through -/

section operations

variable (s : State) (a : Vector MarkedReg 8)

@[simp] theorem State.withArgs_lock : (s.withArgs a).lock = s.lock := rfl
@[simp] theorem State.withArgs_oblock : (s.withArgs a).oblock = s.oblock := rfl
@[simp] theorem State.withArgs_nvOptWp : (s.withArgs a).nvOptWp = s.nvOptWp := rfl
@[simp] theorem State.withArgs_cfg : (s.withArgs a).cfg = s.cfg := rfl
@[simp] theorem State.withArgs_wpBit (k : Nat) : (s.withArgs a).wpBit k = s.wpBit k := rfl
@[simp] theorem State.withArgs_sectorOf (k : Nat) : (s.withArgs a).sectorOf k = s.sectorOf k := rfl
@[simp] theorem State.withArgs_width : (s.withArgs a).width = s.width := rfl

@[simp] theorem State.withArgs_channelHalf (h : HalfSel) (c : Chan) :
    (s.withArgs a).channelHalf h c = s.channelHalf h c := rfl

@[simp] theorem State.setTgt_withArgs (g : TornTarget) : (s.withArgs a).setTgt g = (s.setTgt g).withArgs a := rfl
@[simp] theorem State.setNv_withArgs (lo : Nat) (bs : List Byte) :
    (s.withArgs a).setNv lo bs = (s.setNv lo bs).withArgs a := rfl
@[simp] theorem State.setOptWp_withArgs (v : Word) : (s.withArgs a).setOptWp v = (s.setOptWp v).withArgs a := rfl
@[simp] theorem State.setWp_withArgs (v : Word) : (s.withArgs a).setWp v = (s.setWp v).withArgs a := rfl

@[simp] theorem State.sample?_withArgs (h : Half) (i c : Nat) : (s.withArgs a).sample? h i c = s.sample? h i c :=
  State.sample?_congr rfl rfl rfl rfl h i c

@[simp] theorem State.samples?_withArgs (h : Half) (c lo n : Nat) :
    (s.withArgs a).samples? h c lo n = s.samples? h c lo n := by
  induction n generalizing lo with
  | zero => rfl
  | succ n ih => rw [State.samples?, State.samples?, ih, State.sample?_withArgs]

@[simp] theorem State.rising?_withArgs (h : Half) (c : Nat) : (s.withArgs a).rising? h c = s.rising? h c := by
  funext i
  simp only [State.rising?, State.sample?_withArgs]

@[simp] theorem State.peakFwd?_withArgs (h : Half) (c : Nat) : (s.withArgs a).peakFwd? h c = s.peakFwd? h c := by
  rw [State.peakFwd?, State.rising?_withArgs]; rfl

@[simp] theorem State.peakRev?_withArgs (h : Half) (c : Nat) : (s.withArgs a).peakRev? h c = s.peakRev? h c := by
  rw [State.peakRev?, State.rising?_withArgs]; rfl

@[simp] theorem State.setSamples_withArgs (h : Half) (c lo : Nat) (vs : List Int) :
    (s.withArgs a).setSamples h c lo vs = (s.setSamples h c lo vs).withArgs a := by
  induction vs generalizing s lo with
  | nil => rfl
  | cons v vs ih => exact ih (s.setSample h lo c v) (lo + 1)

@[simp] theorem State.coefs?_withArgs (i n : Nat) : (s.withArgs a).coefs? i n = s.coefs? i n := by
  induction n generalizing i with
  | zero => rfl
  | succ n ih => rw [State.coefs?, State.coefs?, ih]; rfl

@[simp] theorem State.tabEntries?_withArgs (i n : Nat) : (s.withArgs a).tabEntries? i n = s.tabEntries? i n := by
  induction n generalizing i with
  | zero => rfl
  | succ n ih => rw [State.tabEntries?, State.tabEntries?, ih]; rfl

@[simp] theorem State.nvBytes_withArgs (lo n : Nat) : (s.withArgs a).nvBytes lo n = s.nvBytes lo n := by
  rw [State.nvBytes_eq_map, State.nvBytes_eq_map]; rfl

theorem State.draw_withArgs : (s.withArgs a).draw = (s.draw.1, s.draw.2.withArgs a) := by
  simp only [State.draw, State.withArgs]
  split <;> rfl

@[simp] theorem State.drawBool_withArgs : (s.withArgs a).drawBool = (s.drawBool.1, s.drawBool.2.withArgs a) := by
  rw [State.drawBool, State.draw_withArgs]; rfl

@[simp] theorem State.drawBits_withArgs (w : Nat) :
    (s.withArgs a).drawBits w = ((s.drawBits w).1, (s.drawBits w).2.withArgs a) := by
  rw [State.drawBits, State.draw_withArgs]; rfl

@[simp] theorem State.drawBytes_withArgs (n : Nat) :
    (s.withArgs a).drawBytes n = ((s.drawBytes n).1, (s.drawBytes n).2.withArgs a) := by
  induction n generalizing s with
  | zero => rfl
  | succ n ih => simp only [State.drawBytes, State.drawBits_withArgs, ih]

@[simp] theorem State.rmsOf_withArgs (xs : List Int) :
    (s.withArgs a).rmsOf xs = ((s.rmsOf xs).1, (s.rmsOf xs).2.withArgs a) := by
  simp only [State.rmsOf, State.drawBits_withArgs]
  split <;> rfl

theorem State.hmul_withArgs (x : Int) (k : F32) :
    (s.withArgs a).hmul x k = ((s.hmul x k).1, (s.hmul x k).2.withArgs a) := by
  simp only [State.hmul, State.withArgs_width, State.drawBits_withArgs]
  cases F32.trunc (F32.mul (F32.ofInt x) k) with
  | none => rfl
  | some v =>
    dsimp only
    split <;> rfl

@[simp] theorem State.hmulAll_withArgs (xs : List Int) (ks : List F32) :
    (s.withArgs a).hmulAll xs ks = ((s.hmulAll xs ks).1, (s.hmulAll xs ks).2.withArgs a) := by
  induction xs generalizing s ks with
  | nil => cases ks <;> rfl
  | cons x xs ih =>
    cases ks with
    | nil => rfl
    | cons k ks => simp only [State.hmulAll, State.hmul_withArgs, ih]

/-! ### The NV micro-steps (R140) -/

@[simp] theorem State.nvEraseStep_withArgs (k : Nat) :
    (s.withArgs a).nvEraseStep k = ((s.nvEraseStep k).1.withArgs a, (s.nvEraseStep k).2) := by
  simp only [State.nvEraseStep, State.withArgs_lock, State.withArgs_wpBit, State.withArgs_cfg, State.setTgt_withArgs,
    State.drawBool_withArgs, State.drawBytes_withArgs, State.setNv_withArgs]
  split
  · rfl
  · split <;> rfl

@[simp] theorem State.nvProgramStep_withArgs (lo : Nat) (v : List Byte) :
    (s.withArgs a).nvProgramStep lo v = ((s.nvProgramStep lo v).1.withArgs a, (s.nvProgramStep lo v).2) := by
  simp only [State.nvProgramStep, State.withArgs_lock, State.withArgs_wpBit, State.withArgs_sectorOf,
    State.setTgt_withArgs, State.nvBytes_withArgs, State.drawBool_withArgs, State.drawBytes_withArgs,
    State.setNv_withArgs]
  split
  · rfl
  · split
    · rfl
    · split <;> rfl

@[simp] theorem State.optWriteStep_withArgs (k : Nat) (bit : Bool) :
    (s.withArgs a).optWriteStep k bit = ((s.optWriteStep k bit).1.withArgs a, (s.optWriteStep k bit).2) := by
  simp only [State.optWriteStep, State.withArgs_oblock, State.withArgs_nvOptWp, State.setTgt_withArgs,
    State.drawBool_withArgs, State.setOptWp_withArgs]
  split
  · rfl
  · split <;> rfl

@[simp] theorem State.optLaunchStep_withArgs :
    (s.withArgs a).optLaunchStep = (s.optLaunchStep.1.withArgs a, s.optLaunchStep.2) := by
  simp only [State.optLaunchStep, State.withArgs_oblock, State.withArgs_nvOptWp, State.drawBool_withArgs,
    State.setWp_withArgs]
  split
  · rfl
  · split <;> rfl

end operations

/-! ### Outcomes that pass the operand registers through -/

/-- `r'` is the outcome `r` with the operand registers `a`. -/
def Passes (a : Vector MarkedReg 8) (r r' : Result) : Prop := r' = mapNext (fun t => t.withArgs a) r

/-- `r'` is the outcome `r` with the operand registers `a`, where `a` and those of `s` agree on the operands `l`. -/
def PassesIf (a : Vector MarkedReg 8) (s : State) (l : List (Fin 8)) (r r' : Result) : Prop :=
  (∀ n ∈ l, a[n] = s.args[n]) → Passes a r r'

section outcomes

variable {s : State} {a : Vector MarkedReg 8}

theorem Passes.ite {c : Prop} [Decidable c] {x y x' y' : Result} (hx : Passes a x x') (hy : Passes a y y') :
    Passes a (if c then x else y) (if c then x' else y') := by
  split
  · exact hx
  · exact hy

theorem Passes.withData {α : Type} {x x' : Option α} {k k' : α → Result} (hx : x' = x)
    (hk : ∀ v, Passes a (k v) (k' v)) : Passes a (s.withData x k) ((s.withArgs a).withData x' k') := by
  subst hx
  cases x' with
  | none => rfl
  | some v => exact hk v

theorem Passes.accessor {h : HalfSel} {c : Chan} {d d' : Result} {k k' : Half → Result} (hd : Passes a d d')
    (hk : ∀ hf, Passes a (k hf) (k' hf)) : Passes a (s.accessor h c d k) ((s.withArgs a).accessor h c d' k') := by
  rw [State.accessor, State.accessor, show (s.withArgs a).accessorHalf h c = s.accessorHalf h c from rfl]
  cases s.accessorHalf h c with
  | none => exact hd
  | some hf => exact hk hf

theorem Passes.finishStep {r r' : State × Bool} (h : r' = (r.1.withArgs a, r.2)) :
    Passes a (finishStep r) (finishStep r') := by
  subst h
  rfl

theorem Passes.windowChannel (hf : Half) (c : Nat) (ks : List F32) :
    Passes a (s.windowChannel hf c ks) ((s.withArgs a).windowChannel hf c ks) :=
  .withData (s.samples?_withArgs a hf c 0 _) fun xs => by
    rw [State.hmulAll_withArgs, State.setSamples_withArgs]
    rfl

theorem PassesIf.nil {r r' : Result} (h : Passes a r r') : PassesIf a s [] r r' := fun _ => h

theorem PassesIf.cons {n : Fin 8} {l : List (Fin 8)} {k k' : Word → Result} (hk : ∀ v, PassesIf a s l (k v) (k' v)) :
    PassesIf a s (n :: l) (s.withArg n k) ((s.withArgs a).withArg n k') := fun hl => by
  have hn : (s.withArgs a).args[n] = s.args[n] := hl n List.mem_cons_self
  rw [State.withArg, State.withArg, hn]
  exact .ite (hk _ fun m hm => hl m (List.mem_cons_of_mem n hm)) rfl

theorem PassesIf.cbQuery {j : Slot} {value : CircBuf → Nat → F32} :
    PassesIf a s [0] (s.cbQuery j value) ((s.withArgs a).cbQuery j value) :=
  .cons fun _ => .nil (.ite rfl (.ite rfl rfl))

theorem PassesIf.maStep {j : Slot} {value : MovAvg → F32} :
    PassesIf a s [0] (s.maStep j value) ((s.withArgs a).maStep j value) :=
  .cons fun _ => .nil (.ite rfl rfl)

theorem PassesIf.biquadInit {j : Slot} {shape : BiquadDesign → Biquad} :
    PassesIf a s [0, 1, 2] (s.biquadInit j shape) ((s.withArgs a).biquadInit j shape) :=
  .cons fun _ => .cons fun _ => .cons fun _ => .nil rfl

theorem PassesIf.crcCommand {lenOk : Nat → Bool} {value : List Byte → Word} :
    PassesIf a s [0, 1] (s.crcCommand lenOk value) ((s.withArgs a).crcCommand lenOk value) :=
  .cons fun _ => .cons fun _ => .nil (.ite rfl (.ite rfl (.withData rfl fun _ => rfl)))

end outcomes

/-- Every command passes the operand registers through but for the operands the opcode map names (R65). -/
theorem exec_passesIf (i : Instr) (s : State) (a : Vector MarkedReg 8) :
    PassesIf a s i.argsRead (exec i s) (exec i (s.withArgs a)) := by
  cases i with
  | acqInit => rw [exec_acqInit, exec_acqInit]; exact .cons fun _ => .cons fun _ => .cons fun _ => .nil (.ite rfl rfl)
  | acqLoop => exact .nil (.ite rfl rfl)
  | acqMean h c =>
    rw [exec_acqMean, exec_acqMean]
    exact .nil (.accessor rfl fun _ => .withData (s.samples?_withArgs ..) fun _ => rfl)
  | acqMeanLim h c =>
    rw [exec_acqMeanLim, exec_acqMeanLim]
    exact .cons fun _ => .cons fun _ => .nil (.accessor rfl fun _ =>
      .ite rfl (.withData (s.samples?_withArgs ..) fun _ => rfl))
  | acqMeanShift h c =>
    rw [exec_acqMeanShift, exec_acqMeanShift]
    exact .cons fun _ => .nil (.accessor rfl fun _ => .withData (s.samples?_withArgs ..) fun _ => rfl)
  | acqAbsMean h c =>
    rw [exec_acqAbsMean, exec_acqAbsMean]
    exact .nil (.accessor rfl fun _ => .withData (s.samples?_withArgs ..) fun _ => rfl)
  | acqRms h c =>
    rw [exec_acqRms, exec_acqRms]
    exact .nil (.accessor rfl fun _ => .withData (s.samples?_withArgs ..) fun _ => by rw [State.rmsOf_withArgs]; rfl)
  | acqTrueRms h c =>
    rw [exec_acqTrueRms, exec_acqTrueRms]
    exact .cons fun _ => .cons fun _ => .nil (.accessor rfl fun _ =>
      .ite rfl (.withData (s.samples?_withArgs ..) fun _ => by rw [State.rmsOf_withArgs]; rfl))
  | acqMax h c =>
    rw [exec_acqMax, exec_acqMax]
    exact .nil (.accessor rfl fun _ => .withData (s.samples?_withArgs ..) fun _ => rfl)
  | acqMin h c =>
    rw [exec_acqMin, exec_acqMin]
    exact .nil (.accessor rfl fun _ => .withData (s.samples?_withArgs ..) fun _ => rfl)
  | acqSetOffset h c =>
    rw [exec_acqSetOffset, exec_acqSetOffset]
    exact .cons fun _ => .nil (.accessor rfl fun _ =>
      .withData (s.samples?_withArgs ..) fun _ => by rw [State.setSamples_withArgs]; rfl)
  | acqCma h c =>
    rw [exec_acqCma, exec_acqCma]
    exact .cons fun _ => .cons fun _ => .nil (.accessor rfl fun _ =>
      .withData (s.samples?_withArgs ..) fun _ => by dsimp only; rw [State.setSamples_withArgs]; rfl)
  | acqPeakFwd h c =>
    rw [exec_acqPeakFwd, exec_acqPeakFwd]
    exact .nil (.accessor rfl fun _ => .withData (s.peakFwd?_withArgs ..) fun _ => rfl)
  | acqPeakRev h c =>
    rw [exec_acqPeakRev, exec_acqPeakRev]
    exact .nil (.accessor rfl fun _ => .withData (s.peakRev?_withArgs ..) fun _ => rfl)
  | acqSineWin h c =>
    rw [exec_acqSineWin, exec_acqSineWin]
    exact .nil (.accessor rfl fun _ => .withData (s.peakFwd?_withArgs ..) fun _ =>
      .withData (s.peakRev?_withArgs ..) fun _ => rfl)
  | hannInit => rw [exec_hannInit, exec_hannInit]; exact .cons fun _ => .nil (.ite rfl rfl)
  | hannApply h c =>
    rw [exec_hannApply, exec_hannApply]
    refine .nil (.ite rfl ?_)
    rw [State.withArgs_channelHalf]
    cases s.channelHalf h c with
    | none => rfl
    | some hf => exact .ite rfl (.withData (s.coefs?_withArgs ..) fun ks => .windowChannel hf c.toNat ks)
  | hannDirect h c =>
    rw [exec_hannDirect, exec_hannDirect, execHannDirect, execHannDirect, State.withArgs_channelHalf]
    refine .nil ?_
    cases s.channelHalf h c with
    | none => rfl
    | some hf => exact .windowChannel hf c.toNat _
  | bqInitBp j => rw [exec_bqInitBp, exec_bqInitBp]; exact .biquadInit
  | bqInitBs j => rw [exec_bqInitBs, exec_bqInitBs]; exact .biquadInit
  | bqInitLp j => rw [exec_bqInitLp, exec_bqInitLp]; exact .biquadInit
  | bqLoad j =>
    rw [exec_bqLoad, exec_bqLoad]
    exact .cons fun _ => .cons fun _ => .cons fun _ => .cons fun _ => .cons fun _ => .nil rfl
  | bqStep j => rw [exec_bqStep, exec_bqStep]; exact .cons fun _ => .nil (.ite rfl rfl)
  | emaInitFc j => rw [exec_emaInitFc, exec_emaInitFc]; exact .cons fun _ => .cons fun _ => .nil rfl
  | emaInitAlpha j => rw [exec_emaInitAlpha, exec_emaInitAlpha]; exact .cons fun _ => .nil rfl
  | emaStep j => rw [exec_emaStep, exec_emaStep]; exact .cons fun _ => .nil (.ite rfl rfl)
  | notchInit j => rw [exec_notchInit, exec_notchInit]; exact .cons fun _ => .cons fun _ => .cons fun _ => .nil rfl
  | notchStep j => rw [exec_notchStep, exec_notchStep]; exact .cons fun _ => .nil (.ite rfl rfl)
  | cbInit j => rw [exec_cbInit, exec_cbInit]; exact .cons fun _ => .nil (.ite rfl rfl)
  | cbPush j => rw [exec_cbPush, exec_cbPush]; exact .cons fun _ => .nil (.ite rfl rfl)
  | cbGet j => rw [exec_cbGet, exec_cbGet]; exact .cons fun _ => .nil (.ite rfl (.ite rfl rfl))
  | cbMean j => rw [exec_cbMean, exec_cbMean]; exact .cbQuery
  | cbMax j => rw [exec_cbMax, exec_cbMax]; exact .cbQuery
  | arrMax j => rw [exec_arrMax, exec_arrMax]; exact .cbQuery
  | arrMin j => rw [exec_arrMin, exec_arrMin]; exact .cbQuery
  | arrSum j => rw [exec_arrSum, exec_arrSum]; exact .cbQuery
  | arrMean j => rw [exec_arrMean, exec_arrMean]; exact .cbQuery
  | maInit j => rw [exec_maInit, exec_maInit]; exact .cons fun _ => .nil (.ite rfl rfl)
  | maMean j => rw [exec_maMean, exec_maMean]; exact .maStep
  | maVar j => rw [exec_maVar, exec_maVar]; exact .maStep
  | maStd j => rw [exec_maStd, exec_maStd]; exact .maStep
  | gzInit =>
    rw [exec_gzInit, exec_gzInit]
    refine .cons fun _ => .cons fun _ => .cons fun _ => .cons fun targetHz => .cons fun sampleHz => .cons fun n =>
      .cons fun _ => .nil (.ite rfl ?_)
    cases goertzelBin (goertzelKr (u32 n) (f64 targetHz) (f64 sampleHz)) with
    | none => rfl
    | some k => rfl
  | gzFeed h c =>
    rw [exec_gzFeed, exec_gzFeed]
    refine .cons fun _ => .nil (.ite rfl ?_)
    rw [State.withArgs_channelHalf]
    cases s.channelHalf h c with
    | none => rfl
    | some hf => exact .ite rfl (.withData (s.samples?_withArgs ..) fun _ => .ite rfl rfl)
  | fftInit => rw [exec_fftInit, exec_fftInit]; exact .cons fun _ => .nil (.ite rfl rfl)
  | fftRun h c =>
    rw [exec_fftRun, exec_fftRun]
    refine .nil (.ite rfl ?_)
    rw [State.withArgs_channelHalf]
    cases s.channelHalf h c with
    | none => rfl
    | some hf => exact .ite rfl (.withData (s.samples?_withArgs ..) fun _ => rfl)
  | fftAbsMax f0 =>
    rw [exec_fftAbsMax, exec_fftAbsMax]
    exact .cons fun _ => .nil (.ite rfl (.ite rfl (.withData (s.tabEntries?_withArgs ..) fun _ => rfl)))
  | crc4 => rw [exec_crc4, exec_crc4]; exact .crcCommand
  | crc8 => rw [exec_crc8, exec_crc8]; exact .crcCommand
  | crc32 => rw [exec_crc32, exec_crc32]; exact .crcCommand
  | nvUnlock => exact .nil rfl
  | nvLock => exact .nil rfl
  | nvObUnlock => exact .nil rfl
  | nvObLock => exact .nil rfl
  | nvWpSet f0 =>
    rw [exec_nvWpSet, exec_nvWpSet]
    exact .cons fun _ => .nil (.ite rfl (.finishStep (s.optWriteStep_withArgs ..)))
  | nvObLaunch => rw [exec_nvObLaunch, exec_nvObLaunch]; exact .nil (.finishStep (s.optLaunchStep_withArgs a))
  | nvErase =>
    rw [exec_nvErase, exec_nvErase]
    exact .cons fun _ => .nil (.ite rfl (.finishStep (s.nvEraseStep_withArgs ..)))
  | nvProgByte =>
    rw [exec_nvProgByte, exec_nvProgByte]
    exact .cons fun _ => .cons fun _ => .nil (.ite rfl (.finishStep (s.nvProgramStep_withArgs ..)))
  | nvProgWord =>
    rw [exec_nvProgWord, exec_nvProgWord]
    exact .cons fun _ => .cons fun _ => .nil (.ite rfl (.finishStep (s.nvProgramStep_withArgs ..)))
  | nvReadByte => rw [exec_nvReadByte, exec_nvReadByte]; exact .cons fun _ => .nil (.ite rfl rfl)
  | nvRead f0 =>
    rw [exec_nvRead, exec_nvRead]
    refine .cons fun _ => .cons fun _ => .cons fun _ => .nil (.ite rfl ?_)
    simp only [State.nvBytes_withArgs]
    exact .ite rfl rfl
  | nvWrite f0 =>
    rw [exec_nvWrite, exec_nvWrite]
    exact .cons fun _ => .cons fun _ => .cons fun _ => .nil (.ite rfl (.ite rfl (.withData rfl fun _ => .ite rfl rfl)))
  | otpRead =>
    rw [exec_otpRead, exec_otpRead, execOtpRead, execOtpRead, State.nvBytes_withArgs, State.withArgs_nvOptWp,
      State.withArgs_cfg]
    refine .nil ?_
    split <;> rfl
  | otpWrite =>
    rw [exec_otpWrite, exec_otpWrite]
    exact .nil (.withData rfl fun _ => .ite rfl rfl)

/-- Settles O59: every operation of a command but the read of its own operands passes the operand registers through. -/
theorem onlyNamedOperandsAreRead : Obligations.OnlyNamedOperandsAreRead :=
  fun i s args hl => exec_passesIf i s args hl

end Sys2Proof.Machine
end
